-- ==== Sys2Proof/Word.lean ====
section
/-! DEFINITION. The word types of MSPFP: bytes, command words and the 32-bit result
(spec 00_scope R5, R7). -/

namespace Sys2Proof

/-- A byte: 8 bits, bit 0 the least significant (R7). -/
abbrev Byte := BitVec 8

/-- A host command word: 16 bits (R80). -/
abbrev CmdWord := BitVec 16

/-- The width of the result register `RES` and of the output `STATUS` (R5, R43). -/
abbrev Word32 := BitVec 32

end Sys2Proof
end

