-- ==== Sys2Proof/Config.lean ====
section
/-! DEFINITION. What is fixed for the block (spec 00_scope R5, 30_encoding R71, R74) and the one value
the spec leaves open, the payload buffer's bytes at reset (10_state R47, 93 item U1). -/

namespace Sys2Proof.Config

/-- Size of the payload buffer in bytes (R5, R28, R50): offsets 0 to 254. -/
def pmax : Nat := 255

/-- Header byte 0, `'$'` (R71). PRESUMED by the spec itself: ASCII, 93 item G1 (log 9). -/
def dollar : Byte := 0x24

/-- Header byte 1, `'M'` (R71; log 9). -/
def letterM : Byte := 0x4D

/-- The direction character `'<'` of a request (R71, R72; log 9). -/
def requestChar : Byte := 0x3C

/-- The direction character `'>'` of a response (R71, R72; log 9). -/
def responseChar : Byte := 0x3E

/-- The six command codes of R74. -/
def codeRawImu : Byte := 0x66

/-- MOTOR, 104 (R74). -/
def codeMotor : Byte := 0x68

/-- RC, 105 (R74). -/
def codeRc : Byte := 0x69

/-- ATTITUDE, 108 (R74). -/
def codeAttitude : Byte := 0x6C

/-- ALTITUDE, 109 (R74). -/
def codeAltitude : Byte := 0x6D

/-- SET_RAW_RC, 200 (R74). -/
def codeSetRawRc : Byte := 0xC8

/-- The named codes, in the opcode table's order; every other code is one of the catch-all rows (R87). -/
def namedCodes : List Byte :=
  [codeRawImu, codeMotor, codeRc, codeAttitude, codeAltitude, codeSetRawRc]

/-- FREE VALUE: the byte at each offset of `PAY` in the reset state. R47: "unspecified: any 255 byte values; a
model takes them as an arbitrary parameter of the reset state". No body, so nothing can be proved of it (log 3). -/
opaque payReset : Nat → Byte

end Sys2Proof.Config
end

