-- ==== Sys2Proof/Syntax.lean ====
section
/-! DEFINITION. The instructions: one constructor per row of spec/opcode_table.json, the ten operations of the
command word (R80) and the fourteen frame kinds (R87); and what the host can put on the command port. -/

namespace Sys2Proof

/-- A field width at the decoder's ports, 1 to 4 bytes (R55, R81). -/
inductive Width where
  | w1 | w2 | w3 | w4
deriving DecidableEq, Repr

/-- The number of bytes of a width. -/
def Width.bytes : Width → Nat
  | .w1 => 1
  | .w2 => 2
  | .w3 => 3
  | .w4 => 4

/-- The instructions. A frame row holds what the wire leaves open in the row: the length byte, the payload, the
checksum byte, and in the two catch-all rows the code byte (R70, R87). -/
inductive Instr where
  /-- R165. -/
  | nop
  /-- R121: start of read. -/
  | sor
  /-- R122: deliver one received byte. -/
  | push (b : Byte)
  /-- R123: end of read. -/
  | eor
  /-- R150: decode a signed field of `w` bytes at payload offset `off`. -/
  | dec (w : Width) (off : Byte)
  /-- R151: read one raw payload byte. -/
  | rdb (off : Byte)
  /-- R104: load operand byte `OPB[i]`. -/
  | ldo (i : Fin 4) (b : Byte)
  /-- R105: decode the operand registers. -/
  | deco (w : Width)
  /-- R166: write `CFG.STRICT`. -/
  | wrc (strict : Bool)
  /-- R167: reset. -/
  | rst
  /-- R124, R87: response frame, code 102. -/
  | respRawImu (len : Byte) (payload : List Byte) (csum : Byte)
  /-- R124, R87: response frame, code 104. -/
  | respMotor (len : Byte) (payload : List Byte) (csum : Byte)
  /-- R124, R87: response frame, code 105. -/
  | respRc (len : Byte) (payload : List Byte) (csum : Byte)
  /-- R124, R87: response frame, code 108. -/
  | respAttitude (len : Byte) (payload : List Byte) (csum : Byte)
  /-- R124, R87: response frame, code 109. -/
  | respAltitude (len : Byte) (payload : List Byte) (csum : Byte)
  /-- R124, R87: response frame, code 200. -/
  | respSetRawRc (len : Byte) (payload : List Byte) (csum : Byte)
  /-- R124, R87: response frame, any code outside the six. -/
  | respOther (len code : Byte) (payload : List Byte) (csum : Byte)
  /-- R124, R87: request frame, code 102. -/
  | reqRawImu (len : Byte) (payload : List Byte) (csum : Byte)
  /-- R124, R87: request frame, code 104. -/
  | reqMotor (len : Byte) (payload : List Byte) (csum : Byte)
  /-- R124, R87: request frame, code 105. -/
  | reqRc (len : Byte) (payload : List Byte) (csum : Byte)
  /-- R124, R87: request frame, code 108. -/
  | reqAttitude (len : Byte) (payload : List Byte) (csum : Byte)
  /-- R124, R87: request frame, code 109. -/
  | reqAltitude (len : Byte) (payload : List Byte) (csum : Byte)
  /-- R124, R87: command frame, code 200. -/
  | cmdSetRawRc (len : Byte) (payload : List Byte) (csum : Byte)
  /-- R124, R87: request frame, any code outside the six. -/
  | reqOther (len code : Byte) (payload : List Byte) (csum : Byte)
deriving DecidableEq, Repr

/-- One thing the host puts on the port: a command word (R80), or the bytes of one whole serial read, which is
`FEED raw` (R86, R120). DESIGN CHOICE of the model's interface, log 1 and log 2. -/
inductive HostInput where
  | word (c : CmdWord)
  | read (raw : List Byte)
deriving DecidableEq, Repr

/-- A row's mnemonic, as spec/opcode_table.json spells it. -/
def Instr.mnemonic : Instr → String
  | .nop => "NOP"
  | .sor => "SOR"
  | .push _ => "PUSH"
  | .eor => "EOR"
  | .dec _ _ => "DEC"
  | .rdb _ => "RDB"
  | .ldo _ _ => "LDO"
  | .deco _ => "DECO"
  | .wrc _ => "WRC"
  | .rst => "RST"
  | .respRawImu _ _ _ => "RESP_RAW_IMU"
  | .respMotor _ _ _ => "RESP_MOTOR"
  | .respRc _ _ _ => "RESP_RC"
  | .respAttitude _ _ _ => "RESP_ATTITUDE"
  | .respAltitude _ _ _ => "RESP_ALTITUDE"
  | .respSetRawRc _ _ _ => "RESP_SET_RAW_RC"
  | .respOther _ _ _ _ => "RESP_OTHER"
  | .reqRawImu _ _ _ => "REQ_RAW_IMU"
  | .reqMotor _ _ _ => "REQ_MOTOR"
  | .reqRc _ _ _ => "REQ_RC"
  | .reqAttitude _ _ _ => "REQ_ATTITUDE"
  | .reqAltitude _ _ _ => "REQ_ALTITUDE"
  | .cmdSetRawRc _ _ _ => "CMD_SET_RAW_RC"
  | .reqOther _ _ _ _ => "REQ_OTHER"

end Sys2Proof
end

