-- ==== Sys2Proof/WellFormed.lean ====
section
/-! DEFINITION. Which instructions an encoding exists for. The ten operations are well formed as they stand: their
types admit no operand that R80 calls illegal. A frame row asks two things: the payload has as many bytes as the
length byte says (R70), and a catch-all row's code is none of the six (R87). -/

namespace Sys2Proof

/-- R70: the frame holds `LEN` payload bytes. -/
def payloadFits (len : Byte) (payload : List Byte) : Bool := payload.length == len.toNat

/-- R87: the two `_OTHER` rows exclude the six named codes. -/
def isOtherCode (code : Byte) : Bool := !Config.namedCodes.contains code

/-- The check of an instruction's operands against its encoding. -/
def Instr.wellFormed : Instr → Bool
  | .nop => true
  | .sor => true
  | .push _ => true
  | .eor => true
  | .dec _ _ => true
  | .rdb _ => true
  | .ldo _ _ => true
  | .deco _ => true
  | .wrc _ => true
  | .rst => true
  | .respRawImu len payload _ => payloadFits len payload
  | .respMotor len payload _ => payloadFits len payload
  | .respRc len payload _ => payloadFits len payload
  | .respAttitude len payload _ => payloadFits len payload
  | .respAltitude len payload _ => payloadFits len payload
  | .respSetRawRc len payload _ => payloadFits len payload
  | .respOther len code payload _ => isOtherCode code && payloadFits len payload
  | .reqRawImu len payload _ => payloadFits len payload
  | .reqMotor len payload _ => payloadFits len payload
  | .reqRc len payload _ => payloadFits len payload
  | .reqAttitude len payload _ => payloadFits len payload
  | .reqAltitude len payload _ => payloadFits len payload
  | .cmdSetRawRc len payload _ => payloadFits len payload
  | .reqOther len code payload _ => isOtherCode code && payloadFits len payload

end Sys2Proof
end

