-- ==== Sys2Proof/Decode.lean ====
section
/-! DEFINITION. The decoder of command words (R80, R81, R83) and of frames (R70, R77, R87), total and rejecting by
name; the encoder; and the opcode table's own rows as masks and patterns. -/

namespace Sys2Proof

/-- Why an input is no instruction. A command word so rejected is an illegal encoding, which the block refuses with
`ERR <- 1` (R83, R168); a read so rejected is no complete frame, and the parser still performs `FEED` on it (R124). -/
inductive DecodeError where
  /-- R168: opcodes 0x9 to 0xE. -/
  | reservedOpcode (op : BitVec 4)
  /-- R83: a "must be 0" field is not 0. -/
  | mustBeZero
  /-- R83: `w` of DEC or DECO is 0 or 5 to 15. -/
  | badWidth (w : BitVec 4)
  /-- R83: `w` of LDO is 4 to 15. -/
  | badOperandIndex (w : BitVec 4)
  /-- R83: `imm[7:1]` of WRC is not 0. -/
  | badConfig (imm : Byte)
  /-- R70: fewer than 5 bytes. -/
  | shortRead
  /-- R70, R84: the first three bytes are no header. -/
  | badHeader
  /-- R70: fewer than `LEN` payload bytes. -/
  | payloadCut
  /-- R70: no checksum byte. -/
  | checksumMissing
  /-- R128: bytes after the checksum byte. -/
  | trailingBytes
deriving DecidableEq, Repr

/-! ## Command words -/

/-- `op = c[15:12]` (R80). -/
def opField (c : CmdWord) : BitVec 4 := c.extractLsb 15 12

/-- `w = c[11:8]` (R80, R81). -/
def wField (c : CmdWord) : BitVec 4 := c.extractLsb 11 8

/-- `imm = c[7:0]` (R80, R81). -/
def immField (c : CmdWord) : Byte := c.extractLsb 7 0

/-- The width a `w` field of DEC or DECO names: 1 to 4, else illegal (R83). -/
def widthOf (w : BitVec 4) : Option Width :=
  match w.toNat with
  | 1 => some .w1
  | 2 => some .w2
  | 3 => some .w3
  | 4 => some .w4
  | _ => none

/-- An operation without operands: `w` and `imm` must be 0 (R80). -/
def plainWord (w : BitVec 4) (imm : Byte) (i : Instr) : Except DecodeError Instr :=
  if w = 0 ∧ imm = 0 then .ok i else .error .mustBeZero

/-- An operation with an immediate only: `w` must be 0 (R80). -/
def immWord (w : BitVec 4) (i : Instr) : Except DecodeError Instr :=
  if w = 0 then .ok i else .error .mustBeZero

/-- DEC (R80, R150). -/
def decWord (w : BitVec 4) (imm : Byte) : Except DecodeError Instr :=
  match widthOf w with
  | some k => .ok (.dec k imm)
  | none => .error (.badWidth w)

/-- LDO (R80, R104). -/
def ldoWord (w : BitVec 4) (imm : Byte) : Except DecodeError Instr :=
  if h : w.toNat < 4 then .ok (.ldo ⟨w.toNat, h⟩ imm) else .error (.badOperandIndex w)

/-- DECO (R80, R105). -/
def decoWord (w : BitVec 4) (imm : Byte) : Except DecodeError Instr :=
  if imm = 0 then
    match widthOf w with
    | some k => .ok (.deco k)
    | none => .error (.badWidth w)
  else .error .mustBeZero

/-- WRC (R80, R166). -/
def wrcWord (w : BitVec 4) (imm : Byte) : Except DecodeError Instr :=
  if w = 0 then
    if imm = 0 then .ok (.wrc false)
    else if imm = 1 then .ok (.wrc true)
    else .error (.badConfig imm)
  else .error .mustBeZero

/-- The decoder of command words: the rows of R80; every word that selects no row is rejected (R83). -/
def decodeWord (c : CmdWord) : Except DecodeError Instr :=
  let op := opField c
  let w := wField c
  let imm := immField c
  match op.toNat with
  | 0 => plainWord w imm .nop
  | 1 => plainWord w imm .sor
  | 2 => immWord w (.push imm)
  | 3 => plainWord w imm .eor
  | 4 => decWord w imm
  | 5 => immWord w (.rdb imm)
  | 6 => ldoWord w imm
  | 7 => decoWord w imm
  | 8 => wrcWord w imm
  | 15 => plainWord w imm .rst
  | _ => .error (.reservedOpcode op)

/-! ## Frames -/

/-- The response row a code selects (R87). -/
def responseRow (len code : Byte) (payload : List Byte) (csum : Byte) : Instr :=
  if code = Config.codeRawImu then .respRawImu len payload csum
  else if code = Config.codeMotor then .respMotor len payload csum
  else if code = Config.codeRc then .respRc len payload csum
  else if code = Config.codeAttitude then .respAttitude len payload csum
  else if code = Config.codeAltitude then .respAltitude len payload csum
  else if code = Config.codeSetRawRc then .respSetRawRc len payload csum
  else .respOther len code payload csum

/-- The request row a code selects (R87). -/
def requestRow (len code : Byte) (payload : List Byte) (csum : Byte) : Instr :=
  if code = Config.codeRawImu then .reqRawImu len payload csum
  else if code = Config.codeMotor then .reqMotor len payload csum
  else if code = Config.codeRc then .reqRc len payload csum
  else if code = Config.codeAttitude then .reqAttitude len payload csum
  else if code = Config.codeAltitude then .reqAltitude len payload csum
  else if code = Config.codeSetRawRc then .cmdSetRawRc len payload csum
  else .reqOther len code payload csum

/-- What follows byte 4 of a frame: exactly `len` payload bytes and one checksum byte (R70, R77). -/
def splitBody (len : Byte) (body : List Byte) : Except DecodeError (List Byte × Byte) :=
  if body.length < len.toNat then .error .payloadCut
  else
    match body.drop len.toNat with
    | [] => .error .checksumMissing
    | [csum] => .ok (body.take len.toNat, csum)
    | _ :: _ :: _ => .error .trailingBytes

/-- The decoder of frames: a read that is exactly one frame (R70), by the row its first five bytes select (R87). -/
def decodeFrame (raw : List Byte) : Except DecodeError Instr :=
  match raw with
  | b0 :: b1 :: b2 :: len :: code :: body =>
    if b0 = Config.dollar ∧ b1 = Config.letterM then
      if b2 = Config.responseChar then
        (splitBody len body).map fun p => responseRow len code p.1 p.2
      else if b2 = Config.requestChar then
        (splitBody len body).map fun p => requestRow len code p.1 p.2
      else .error .badHeader
    else .error .badHeader
  | _ => .error .shortRead

/-- The decoder of what the host puts on the port. -/
def decode : HostInput → Except DecodeError Instr
  | .word c => decodeWord c
  | .read raw => decodeFrame raw

/-! ## The encoder -/

/-- A command word from its three fields: `4096·op + 256·w + imm` (R80, R85). -/
def cmdWord (op w : BitVec 4) (imm : Byte) : CmdWord :=
  BitVec.ofNat 16 (4096 * op.toNat + 256 * w.toNat + imm.toNat)

/-- The `w` field of a width (R81). -/
def widthField (w : Width) : BitVec 4 := BitVec.ofNat 4 w.bytes

/-- The bytes of a frame in wire order (R70). -/
def frameBytes (direction len code : Byte) (payload : List Byte) (csum : Byte) : List Byte :=
  Config.dollar :: Config.letterM :: direction :: len :: code :: (payload ++ [csum])

/-- A response frame on the wire. -/
def responseBytes (len code : Byte) (payload : List Byte) (csum : Byte) : List Byte :=
  frameBytes Config.responseChar len code payload csum

/-- A request or command frame on the wire. -/
def requestBytes (len code : Byte) (payload : List Byte) (csum : Byte) : List Byte :=
  frameBytes Config.requestChar len code payload csum

/-- The encoder: an operation's command word (R80, R85), a frame row's bytes (R70). -/
def encode : Instr → HostInput
  | .nop => .word (cmdWord 0x0 0 0)
  | .sor => .word (cmdWord 0x1 0 0)
  | .push b => .word (cmdWord 0x2 0 b)
  | .eor => .word (cmdWord 0x3 0 0)
  | .dec w off => .word (cmdWord 0x4 (widthField w) off)
  | .rdb off => .word (cmdWord 0x5 0 off)
  | .ldo i b => .word (cmdWord 0x6 (BitVec.ofNat 4 i.val) b)
  | .deco w => .word (cmdWord 0x7 (widthField w) 0)
  | .wrc strict => .word (cmdWord 0x8 0 (if strict then 1 else 0))
  | .rst => .word (cmdWord 0xF 0 0)
  | .respRawImu len payload csum => .read (responseBytes len Config.codeRawImu payload csum)
  | .respMotor len payload csum => .read (responseBytes len Config.codeMotor payload csum)
  | .respRc len payload csum => .read (responseBytes len Config.codeRc payload csum)
  | .respAttitude len payload csum => .read (responseBytes len Config.codeAttitude payload csum)
  | .respAltitude len payload csum => .read (responseBytes len Config.codeAltitude payload csum)
  | .respSetRawRc len payload csum => .read (responseBytes len Config.codeSetRawRc payload csum)
  | .respOther len code payload csum => .read (responseBytes len code payload csum)
  | .reqRawImu len payload csum => .read (requestBytes len Config.codeRawImu payload csum)
  | .reqMotor len payload csum => .read (requestBytes len Config.codeMotor payload csum)
  | .reqRc len payload csum => .read (requestBytes len Config.codeRc payload csum)
  | .reqAttitude len payload csum => .read (requestBytes len Config.codeAttitude payload csum)
  | .reqAltitude len payload csum => .read (requestBytes len Config.codeAltitude payload csum)
  | .cmdSetRawRc len payload csum => .read (requestBytes len Config.codeSetRawRc payload csum)
  | .reqOther len code payload csum => .read (requestBytes len code payload csum)

/-! ## The opcode table as data -/

/-- The extra condition a CMD16 row puts on `w` (the table's `valid_if`). -/
inductive WidthRule where
  | any
  | oneToFour
deriving DecidableEq, Repr

/-- A CMD16 row of spec/opcode_table.json (R80, R87). -/
structure CmdRow where
  mnemonic : String
  pattern : CmdWord
  mask : CmdWord
  widthRule : WidthRule
deriving DecidableEq, Repr

/-- The ten CMD16 rows (R80). -/
def cmdRows : List CmdRow :=
  [⟨"NOP", 0x0000, 0xFFFF, .any⟩, ⟨"SOR", 0x1000, 0xFFFF, .any⟩, ⟨"PUSH", 0x2000, 0xFF00, .any⟩,
   ⟨"EOR", 0x3000, 0xFFFF, .any⟩, ⟨"DEC", 0x4000, 0xF000, .oneToFour⟩, ⟨"RDB", 0x5000, 0xFF00, .any⟩,
   ⟨"LDO", 0x6000, 0xFC00, .any⟩, ⟨"DECO", 0x7000, 0xF0FF, .oneToFour⟩, ⟨"WRC", 0x8000, 0xFFFE, .any⟩,
   ⟨"RST", 0xF000, 0xFFFF, .any⟩]

/-- The extra condition, as a check of the word. -/
def WidthRule.holds (r : WidthRule) (c : CmdWord) : Bool :=
  match r with
  | .any => true
  | .oneToFour => 1 ≤ (wField c).toNat && (wField c).toNat ≤ 4

/-- "A word `c` selects a row when `(c & mask) = match` and the extra `w` condition, where given, holds" (R80). -/
def CmdRow.selects (r : CmdRow) (c : CmdWord) : Bool :=
  (c &&& r.mask == r.pattern) && r.widthRule.holds c

/-- An MSP_FRAME row: 40-bit match and mask over the first five bytes, byte 0 the most significant (R87). -/
structure FrameRow where
  mnemonic : String
  pattern : BitVec 40
  mask : BitVec 40
  other : Bool
  cat : BitVec 3
deriving DecidableEq, Repr

/-- The fourteen MSP_FRAME rows; `other` marks the rows whose `valid_if` excludes the six codes (R87). -/
def frameRows : List FrameRow :=
  [⟨"RESP_RAW_IMU", 0x244D3E0066, 0xFFFFFF00FF, false, 5⟩,
   ⟨"RESP_MOTOR", 0x244D3E0068, 0xFFFFFF00FF, false, 4⟩,
   ⟨"RESP_RC", 0x244D3E0069, 0xFFFFFF00FF, false, 3⟩,
   ⟨"RESP_ATTITUDE", 0x244D3E006C, 0xFFFFFF00FF, false, 1⟩,
   ⟨"RESP_ALTITUDE", 0x244D3E006D, 0xFFFFFF00FF, false, 2⟩,
   ⟨"RESP_SET_RAW_RC", 0x244D3E00C8, 0xFFFFFF00FF, false, 6⟩,
   ⟨"RESP_OTHER", 0x244D3E0000, 0xFFFFFF0000, true, 0⟩] ++
  [⟨"REQ_RAW_IMU", 0x244D3C0066, 0xFFFFFF00FF, false, 5⟩,
   ⟨"REQ_MOTOR", 0x244D3C0068, 0xFFFFFF00FF, false, 4⟩,
   ⟨"REQ_RC", 0x244D3C0069, 0xFFFFFF00FF, false, 3⟩,
   ⟨"REQ_ATTITUDE", 0x244D3C006C, 0xFFFFFF00FF, false, 1⟩,
   ⟨"REQ_ALTITUDE", 0x244D3C006D, 0xFFFFFF00FF, false, 2⟩,
   ⟨"CMD_SET_RAW_RC", 0x244D3C00C8, 0xFFFFFF00FF, false, 6⟩,
   ⟨"REQ_OTHER", 0x244D3C0000, 0xFFFFFF0000, true, 0⟩]

/-- The 40-bit value over a frame's first five bytes, `{b0, b1, b2, b3, b4}`, byte 0 the most significant (R87). -/
def frameHead (b0 b1 b2 b3 b4 : Byte) : BitVec 40 :=
  BitVec.ofNat 40
    (4294967296 * b0.toNat + 16777216 * b1.toNat + 65536 * b2.toNat + 256 * b3.toNat + b4.toNat)

/-- A frame row selects a five-byte head (R87): the masked bits match, and a catch-all row's code is none of the six. -/
def FrameRow.selects (r : FrameRow) (head : BitVec 40) : Bool :=
  (head &&& r.mask == r.pattern) && (!r.other || isOtherCode (head.extractLsb 7 0))

/-- The mnemonics of the table's rows that an input selects. -/
def rowsOf : HostInput → List String
  | .word c => (cmdRows.filter (·.selects c)).map (·.mnemonic)
  | .read (b0 :: b1 :: b2 :: b3 :: b4 :: _) =>
    (frameRows.filter (·.selects (frameHead b0 b1 b2 b3 b4))).map (·.mnemonic)
  | .read _ => []

/-! ## The host's view of the table -/

/-- The input that a table row's bits stand for. Up to 16 bits: the command word itself. More: the table's 40-bit
number, byte 0 of the frame its most significant byte (R87), with every later byte of the frame 0: `LEN` payload
bytes and the checksum byte (log 5). -/
def tableInput (nbits w : Nat) : HostInput :=
  if nbits ≤ 16 then .word (BitVec.ofNat 16 w)
  else
    let head := BitVec.ofNat 40 w
    let len : Byte := head.extractLsb 15 8
    .read (head.extractLsb 39 32 :: head.extractLsb 31 24 :: head.extractLsb 23 16 :: len ::
      head.extractLsb 7 0 :: List.replicate (len.toNat + 1) 0)

/-- The instruction the decoder reads from a table row's bits, if any. -/
def decodeTableWord (nbits w : Nat) : Option Instr :=
  match decode (tableInput nbits w) with
  | .ok i => some i
  | .error _ => none

end Sys2Proof
end

