-- ==== Sys2Proof/Machine/State.lean ====
section
/-! DEFINITION. The state of the block: every piece spec 10_state R20 names, as plain data, with the reset values of
R47; and the model's own field `port`, the host's inputs not yet performed (log 1). -/

namespace Sys2Proof.Machine

/-- Reasons the machine could stop with a fault. The spec gives the block no such stop (R197), and no state of the
model raises one (log 10). -/
inductive Fault where
  /-- Raised by `memRead` and `memWrite` for an access that leaves the payload buffer, `k + n > 255` (R8, R50). Safe: it
  would stop the model where the spec gives no access at all. -/
  | payloadAddress (k n : Nat)
deriving DecidableEq, Repr

/-- Reasons the machine could answer with a refusal of the MODEL. The block's own refusals are next states with
`ERR` set (R186), not these. -/
inductive Refusal where
  /-- Raised by nobody: every instruction has its meaning. Safe. -/
  | notModelled (mnemonic : String)
deriving DecidableEq, Repr

/-- `REASON` (R33). The code 7 is never produced, so it has no constructor (93 item U9; log 7). -/
inductive Reason where
  /-- 0: no verdict, or the frame is available. -/
  | none
  /-- 1: `CNT = 0`. -/
  | empty
  /-- 2: `CNT` is 1 to 4. -/
  | short
  /-- 3: a header byte did not match. -/
  | badHdr
  /-- 4: the payload was cut. -/
  | trunc
  /-- 5: strict mode, no checksum byte. -/
  | noCsum
  /-- 6: strict mode, wrong checksum byte. -/
  | badCsum
deriving DecidableEq, Repr

/-- The payload buffer: (offset, byte) pairs, offsets strictly rising and below 255. An offset that is not listed
holds no value that anything wrote since reset: it reads as the free value `Config.payReset` (R47; log 3). -/
abbrev Memory := List Host.Cell

/-- The state (R20). -/
structure State where
  /-- `CFG.STRICT` (R39). -/
  strict : Bool
  /-- `OPEN` (R25). -/
  winOpen : Bool
  /-- `CNT` (R23). -/
  cnt : BitVec 9
  /-- `HBAD` (R26). -/
  hbad : Bool
  /-- `DIR` (R26). -/
  dir : Bool
  /-- `LEN` (R27). -/
  len : Byte
  /-- `CODE` (R27). -/
  code : Byte
  /-- `PAY[0..254]` (R28). -/
  pay : Memory
  /-- `XACC` (R29). -/
  xacc : Byte
  /-- `CSB` (R30). -/
  csb : Byte
  /-- `CSEEN` (R30). -/
  cseen : Bool
  /-- `TRAIL` (R31). -/
  trail : Bool
  /-- `DONE` (R32). -/
  done : Bool
  /-- `VALID` (R33). -/
  valid : Bool
  /-- `REASON` (R33). -/
  reason : Reason
  /-- `CSOK` (R34). -/
  csok : Bool
  /-- `FERR` (R37). -/
  ferr : Bool
  /-- `HIT` (R36). -/
  hit : Bool
  /-- `RESV` (R36). -/
  resv : Bool
  /-- `RES` (R35). -/
  res : Word32
  /-- `OPB[0..3]` (R21). -/
  opb : Vector Byte 4
  /-- `ERR` (R38). -/
  err : Bool
  /-- The MODEL's own field: what the host has put on the command port and the block has not performed yet, oldest
  first (log 1). -/
  port : List HostInput
deriving DecidableEq, Repr

/-- The state after reset (R47): all zero, `PAY` unspecified (nothing listed), nothing on the port. -/
def State.reset : State where
  strict := false
  winOpen := false
  cnt := 0
  hbad := false
  dir := false
  len := 0
  code := 0
  pay := []
  xacc := 0
  csb := 0
  cseen := false
  trail := false
  done := false
  valid := false
  reason := .none
  csok := false
  ferr := false
  hit := false
  resv := false
  res := 0
  opb := Vector.replicate 4 0
  err := false
  port := []

/-- What an instruction or a step answers. -/
abbrev Result := Host.Outcome State Fault Refusal

end Sys2Proof.Machine
end

