-- ==== Sys2Proof/Machine/Ops.lean ====
section
/-! DEFINITION. The named operations over the payload buffer and the registers, and the abnormal outcomes, which are
flag writes and nothing else (R8, R180, R190). There is no trap to take and no return operation (R190, R191): what the
spec has in their place is `refuse`, `raiseUnavailable` and `raiseMalformed` here, ended by SOR and RST. -/

namespace Sys2Proof.Machine

/-- Sequencing of two outcomes: the second runs from the first's next state. -/
def andThen (o : Result) (f : State → Result) : Result :=
  match o with
  | .next s => f s
  | .fault e => .fault e
  | .refused e => .refused e

/-! ## The payload buffer (R28, R50) -/

/-- The byte written at offset `k` since reset, if any. -/
def Memory.read? : Memory → Nat → Option Byte
  | [], _ => none
  | (a, b) :: m, k => if a = k then some b else Memory.read? m k

/-- Write one byte, keeping the offsets rising. -/
def Memory.set : Memory → Nat → Byte → Memory
  | [], k, b => [(k, b)]
  | (a, c) :: m, k, b =>
    if k < a then (k, b) :: (a, c) :: m
    else if k = a then (k, b) :: m
    else (a, c) :: Memory.set m k b

/-- Write a list of bytes from offset `k` on, lowest offset first (R8). -/
def Memory.setList : Memory → Nat → List Byte → Memory
  | m, _, [] => m
  | m, k, b :: bs => Memory.setList (Memory.set m k b) (k + 1) bs

/-- Every offset is at least `lo`, below 255, and above the one before it. -/
def Memory.wfFrom : Nat → Memory → Bool
  | _, [] => true
  | lo, (a, _) :: m => decide (lo ≤ a) && decide (a < Config.pmax) && Memory.wfFrom (a + 1) m

/-- The canonical form: offsets strictly rising, all inside the buffer. -/
def Memory.wf (m : Memory) : Bool := Memory.wfFrom 0 m

/-- `PAY[k]`: what was written there since reset, else the reset state's unspecified byte (R28, R47; log 3). -/
def payByte (s : State) (k : Nat) : Byte := (Memory.read? s.pay k).getD (Config.payReset k)

/-- `MemRead(k, n)` (R8): the `n` bytes from offset `k`, lowest first; defined only when `k + n ≤ 255`. -/
def memRead (k n : Nat) (s : State) : Except Fault (List Byte) :=
  if k + n ≤ Config.pmax then .ok ((List.range n).map fun j => payByte s (k + j))
  else .error (.payloadAddress k n)

/-- `MemWrite(k, n, v)` (R8), `n` the number of bytes of `v`; defined only when `k + n ≤ 255`. -/
def memWrite (k : Nat) (v : List Byte) (s : State) : Except Fault State :=
  if k + v.length ≤ Config.pmax then .ok { s with pay := Memory.setList s.pay k v }
  else .error (.payloadAddress k v.length)

/-! ## Abnormal outcomes -/

/-- `refuse` (R8, R186): Misuse. Nothing changes but `ERR <- 1`. -/
def refuse (s : State) : State := { s with err := true }

/-- `raise Unavailable(r)` (R8, R181). -/
def raiseUnavailable (r : Reason) (s : State) : State := { s with valid := false, reason := r }

/-- `raise MalformedField` (R8, R182). -/
def raiseMalformed (s : State) : State := { s with ferr := true, hit := false }

/-- A decode or raw read that performed and delivers nothing: `HIT <- 0`, `RES` retained (R35, R36). -/
def noUpdate (s : State) : State := { s with hit := false }

/-! ## Normal updates -/

/-- A decode or raw read that delivers `v` (R35, R36). -/
def deliver (v : Word32) (s : State) : State := { s with res := v, resv := true, hit := true }

/-- The verdict "available" (R33). -/
def acceptFrame (s : State) : State := { s with valid := true, reason := .none }

/-- A clean parser with the window open: all that SOR writes (R121). -/
def openWindow (s : State) : State :=
  { s with
    winOpen := true, done := false
    cnt := 0, hbad := false, dir := false, len := 0, code := 0
    xacc := 0, csb := 0, cseen := false, trail := false
    valid := false, reason := .none, csok := false
    ferr := false, hit := false }

/-- The window closes and the checksum comparison is latched (R123, R34). -/
def closeWindow (s : State) : State :=
  { s with winOpen := false, done := true, csok := s.cseen && decide (s.csb = s.xacc) }

/-- One more byte of the window took its frame position: `CNT <- CNT + 1` (R23). -/
def advance (s : State) : State := { s with cnt := s.cnt + 1 }

/-- `OPB[i] <- b` (R104). -/
def setOperand (i : Fin 4) (b : Byte) (s : State) : State := { s with opb := s.opb.set i.val b i.isLt }

/-- `[OPB[0], …, OPB[w-1]]` (R105). -/
def operandBytes (w : Width) (s : State) : List Byte := s.opb.toList.take w.bytes

/-- `CFG.STRICT <- v` (R166). -/
def setStrict (v : Bool) (s : State) : State := { s with strict := v }

/-- The host's inputs not yet performed become `p` (the model's field, log 1). -/
def setPort (p : List HostInput) (s : State) : State := { s with port := p }

/-- Reset (R167, R200): every piece of the block's state takes its value of R47. The host's words not yet performed are
no state of the block and stay (log 1). -/
def resetBlock (s : State) : State := setPort s.port State.reset

end Sys2Proof.Machine
end

