-- ==== Sys2Proof/Machine/Operands.lean ====
section
/-! DEFINITION. Operand forms: the frame position of the next byte (R58, R122), the little-endian integers (R51, R100,
R103) and their register form (R8, R106). -/

namespace Sys2Proof.Machine

/-- The frame field at a byte position of the window (R58). -/
inductive Position where
  /-- Position 0, compared with `'$'`. -/
  | header0
  /-- Position 1, compared with `'M'`. -/
  | header1
  /-- Position 2. -/
  | direction
  /-- Position 3. -/
  | length
  /-- Position 4. -/
  | code
  /-- Positions 5 to `LEN + 4`: payload offset `k`. -/
  | payload (k : Nat)
  /-- Position `LEN + 5`. -/
  | checksum
  /-- Position `LEN + 6` and later: no part of the frame. -/
  | trailing
deriving DecidableEq, Repr

/-- The position map of R58 and the branch conditions of R122, for the position `i` and the length `len`. The last
branch is a plain "else", as R122 writes it (log 6). -/
def framePosition (i len : Nat) : Position :=
  if i = 0 then .header0
  else if i = 1 then .header1
  else if i = 2 then .direction
  else if i = 3 then .length
  else if i = 4 then .code
  else if i < len + 5 then .payload (i - 5)
  else if i = len + 5 then .checksum
  else .trailing

/-- The unsigned value `U` of a little-endian list (R51, R100). -/
def unsignedLE : List Byte → Nat
  | [] => 0
  | b :: bs => b.toNat + 256 * unsignedLE bs

/-- Bit 7 of the last byte, the sign (R100, R102 law 7). The empty list is outside the domain (R102 law 1; log 8). -/
def signBit (bs : List Byte) : Bool := (bs.getLastD 0).getLsbD 7

/-- `DecodeSigned(bs)`, the closed form of R100. -/
def decodeSigned (bs : List Byte) : Int :=
  if signBit bs then (unsignedLE bs : Int) - 2 ^ (8 * bs.length) else (unsignedLE bs : Int)

/-- `Encode_N(v)` (R103). -/
def encodeLE (n : Nat) (v : Int) : List Byte :=
  (List.range n).map fun i => BitVec.ofInt 8 (v % 2 ^ (8 * n) / 256 ^ i)

/-- `sext_32(v)` of an integer: `v mod 2^32` (R8, R106). -/
def sext32 (v : Int) : Word32 := BitVec.ofInt 32 v

/-- `zext_32` of a byte (R8). -/
def zext32 (b : Byte) : Word32 := b.setWidth 32

end Sys2Proof.Machine
end

