-- ==== Sys2Proof/Machine/Flags.lean ====
section
/-! DEFINITION. The flag computations: the verdict (R33, R123), the phase (R32), and the outputs that are functions of
the state, `STATUS` and `CAT` (R43, R44, R45). -/

namespace Sys2Proof.Machine

/-- The 3-bit code of `REASON` (R33). -/
def Reason.code : Reason → BitVec 3
  | .none => 0
  | .empty => 1
  | .short => 2
  | .badHdr => 3
  | .trunc => 4
  | .noCsum => 5
  | .badCsum => 6

/-- The verdict EOR forms, first condition that holds (R33, R123, R189). -/
def verdict (s : State) : Reason :=
  if s.cnt.toNat = 0 then .empty
  else if s.cnt.toNat ≤ 4 then .short
  else if s.hbad then .badHdr
  else if s.cnt.toNat < s.len.toNat + 5 then .trunc
  else if s.strict && !s.cseen then .noCsum
  else if s.strict && decide (s.csb ≠ s.xacc) then .badCsum
  else .none

/-- The block's three phases (R32). -/
inductive Phase where
  | idle
  | opened
  | closed
deriving DecidableEq, Repr

/-- The phase of a state: OPEN, DONE, or neither (R32). `OPEN = DONE = 1` is unreachable (R46 item 1). -/
def phase (s : State) : Phase :=
  if s.winOpen then .opened else if s.done then .closed else .idle

/-- `STATUS` (R43): each field at its bit position, bit 15 zero;
`{CODE, LEN, 0, STRICT, HIT, RESV, ERR, FERR, TRAIL, DIR, CSOK, CSEEN, REASON, VALID, DONE, OPEN}`. -/
def status (s : State) : Word32 :=
  BitVec.ofNat 32
    (s.winOpen.toNat + 2 ^ 1 * s.done.toNat + 2 ^ 2 * s.valid.toNat + 2 ^ 3 * s.reason.code.toNat +
      2 ^ 6 * s.cseen.toNat + 2 ^ 7 * s.csok.toNat + 2 ^ 8 * s.dir.toNat + 2 ^ 9 * s.trail.toNat +
      2 ^ 10 * s.ferr.toNat + 2 ^ 11 * s.err.toNat + 2 ^ 12 * s.resv.toNat + 2 ^ 13 * s.hit.toNat +
      2 ^ 14 * s.strict.toNat + 2 ^ 16 * s.len.toNat + 2 ^ 24 * s.code.toNat)

/-- The class of a command code (R44). -/
def catOf (code : Byte) : BitVec 3 :=
  if code = Config.codeAttitude then 1
  else if code = Config.codeAltitude then 2
  else if code = Config.codeRc then 3
  else if code = Config.codeMotor then 4
  else if code = Config.codeRawImu then 5
  else if code = Config.codeSetRawRc then 6
  else 0

/-- The output `CAT` (R44). -/
def cat (s : State) : BitVec 3 := catOf s.code

/-- What the host can observe between two operations (R45). -/
structure Outputs where
  status : Word32
  res : Word32
  cat : BitVec 3
  cnt : BitVec 9
deriving DecidableEq, Repr

/-- The four outputs of a state (R45). -/
def outputs (s : State) : Outputs := ⟨status s, s.res, cat s, s.cnt⟩

end Sys2Proof.Machine
end

