-- ==== Sys2Proof/Machine/Control.lean ====
section
/-! DEFINITION. The control operations NOP, WRC and RST (spec 43_control). -/

namespace Sys2Proof.Machine

/-- NOP: nothing is written (R165). -/
def execNop (s : State) : Result := .next s

/-- WRC: legal when `OPEN = 0`, else refused (R166). The latched verdict is not recomputed. -/
def execWrc (v : Bool) (s : State) : Result :=
  if s.winOpen then .next (refuse s) else .next (setStrict v s)

/-- RST: every piece of state takes its reset value, in every phase (R167). -/
def execRst (s : State) : Result := .next (resetBlock s)

end Sys2Proof.Machine
end

