-- ==== Sys2Proof/Machine/Decoder.lean ====
section
/-! DEFINITION. The stand-alone decoder: LDO and DECO (spec 40_binary_decoder). -/

namespace Sys2Proof.Machine

/-- LDO: legal in every phase; writes `OPB[i]` only (R104). -/
def execLdo (i : Fin 4) (b : Byte) (s : State) : Result := .next (setOperand i b s)

/-- DECO: legal in every phase; cannot fail (R105). -/
def execDeco (w : Width) (s : State) : Result :=
  .next (deliver (sext32 (decodeSigned (operandBytes w s))) s)

end Sys2Proof.Machine
end

