-- ==== Sys2Proof/Machine/Parser.lean ====
section
/-! DEFINITION. The frame parser and checksum validator: SOR, PUSH, EOR (spec 41_frame_parser). -/

namespace Sys2Proof.Machine

/-- SOR: legal in every phase (R121). -/
def execSor (s : State) : Result := .next (openWindow s)

/-- PUSH's one branch, chosen by the position `CNT` (R122, R58). -/
def pushByte (b : Byte) (s : State) : Result :=
  match framePosition s.cnt.toNat s.len.toNat with
  | .header0 => .next { advance s with hbad := decide (b ≠ Config.dollar) }
  | .header1 => .next { advance s with hbad := s.hbad || decide (b ≠ Config.letterM) }
  | .direction =>
    .next { advance s with
            dir := decide (b = Config.responseChar)
            hbad := s.hbad || (decide (b ≠ Config.requestChar) && decide (b ≠ Config.responseChar)) }
  | .length => .next { advance s with len := b, xacc := b }
  | .code => .next { advance s with code := b, xacc := s.xacc ^^^ b }
  | .payload k =>
    match memWrite k [b] s with
    | .ok t => .next { advance t with xacc := t.xacc ^^^ b }
    | .error e => .fault e
  | .checksum => .next { advance s with csb := b, cseen := true }
  | .trailing => .next { s with trail := true }

/-- PUSH: legal when `OPEN = 1`, else refused (R122). -/
def execPush (b : Byte) (s : State) : Result :=
  if s.winOpen then pushByte b s else .next (refuse s)

/-- EOR's effect: close the window and latch the verdict, all of it read from the state before (R123). -/
def latchVerdict (s : State) : State :=
  if verdict s = .none then acceptFrame (closeWindow s) else raiseUnavailable (verdict s) (closeWindow s)

/-- EOR: legal when `OPEN = 1`, else refused (R123). -/
def execEor (s : State) : Result :=
  if s.winOpen then .next (latchVerdict s) else .next (refuse s)

end Sys2Proof.Machine
end

