-- ==== Sys2Proof/Machine/Frames.lean ====
section
/-! DEFINITION. The frame rows of the opcode table. A row's meaning is what the parser does with the frame (R87, R124):
the state after `FEED` of its bytes, `FEED` being the fixed expansion SOR, one PUSH a byte, EOR (R86). -/

namespace Sys2Proof.Machine

/-- One PUSH a byte, in arrival order (R120). -/
def pushAll : List Byte → State → Result
  | [], s => .next s
  | b :: bs, s => andThen (execPush b s) (pushAll bs)

/-- `FEED raw` (R86): SOR, PUSH of each byte, EOR. For any bytes, a frame or not. -/
def feed (raw : List Byte) (s : State) : Result :=
  andThen (execSor s) fun t => andThen (pushAll raw t) execEor

/-- RESP_RAW_IMU, code 102 (R124). -/
def execRespRawImu (len : Byte) (payload : List Byte) (csum : Byte) (s : State) : Result :=
  feed (responseBytes len Config.codeRawImu payload csum) s

/-- RESP_MOTOR, code 104 (R124). -/
def execRespMotor (len : Byte) (payload : List Byte) (csum : Byte) (s : State) : Result :=
  feed (responseBytes len Config.codeMotor payload csum) s

/-- RESP_RC, code 105 (R124). -/
def execRespRc (len : Byte) (payload : List Byte) (csum : Byte) (s : State) : Result :=
  feed (responseBytes len Config.codeRc payload csum) s

/-- RESP_ATTITUDE, code 108 (R124). -/
def execRespAttitude (len : Byte) (payload : List Byte) (csum : Byte) (s : State) : Result :=
  feed (responseBytes len Config.codeAttitude payload csum) s

/-- RESP_ALTITUDE, code 109 (R124). -/
def execRespAltitude (len : Byte) (payload : List Byte) (csum : Byte) (s : State) : Result :=
  feed (responseBytes len Config.codeAltitude payload csum) s

/-- RESP_SET_RAW_RC, code 200 (R124). -/
def execRespSetRawRc (len : Byte) (payload : List Byte) (csum : Byte) (s : State) : Result :=
  feed (responseBytes len Config.codeSetRawRc payload csum) s

/-- RESP_OTHER (R124). -/
def execRespOther (len code : Byte) (payload : List Byte) (csum : Byte) (s : State) : Result :=
  feed (responseBytes len code payload csum) s

/-- REQ_RAW_IMU, code 102 (R124). -/
def execReqRawImu (len : Byte) (payload : List Byte) (csum : Byte) (s : State) : Result :=
  feed (requestBytes len Config.codeRawImu payload csum) s

/-- REQ_MOTOR, code 104 (R124). -/
def execReqMotor (len : Byte) (payload : List Byte) (csum : Byte) (s : State) : Result :=
  feed (requestBytes len Config.codeMotor payload csum) s

/-- REQ_RC, code 105 (R124). -/
def execReqRc (len : Byte) (payload : List Byte) (csum : Byte) (s : State) : Result :=
  feed (requestBytes len Config.codeRc payload csum) s

/-- REQ_ATTITUDE, code 108 (R124). -/
def execReqAttitude (len : Byte) (payload : List Byte) (csum : Byte) (s : State) : Result :=
  feed (requestBytes len Config.codeAttitude payload csum) s

/-- REQ_ALTITUDE, code 109 (R124). -/
def execReqAltitude (len : Byte) (payload : List Byte) (csum : Byte) (s : State) : Result :=
  feed (requestBytes len Config.codeAltitude payload csum) s

/-- CMD_SET_RAW_RC, code 200 (R124). -/
def execCmdSetRawRc (len : Byte) (payload : List Byte) (csum : Byte) (s : State) : Result :=
  feed (requestBytes len Config.codeSetRawRc payload csum) s

/-- REQ_OTHER (R124). -/
def execReqOther (len code : Byte) (payload : List Byte) (csum : Byte) (s : State) : Result :=
  feed (requestBytes len code payload csum) s

end Sys2Proof.Machine
end

