-- ==== Sys2Proof/Machine/Payload.lean ====
section
/-! DEFINITION. Payload access: DEC and RDB (spec 42_payload_access). -/

namespace Sys2Proof.Machine

/-- DEC in phase DONE (R150): FrameUnavailable, then MalformedField, then the decoded field. -/
def decodeField (w : Width) (off : Byte) (s : State) : Result :=
  if s.valid then
    if s.ferr = true ∨ s.len.toNat < off.toNat + w.bytes then .next (raiseMalformed s)
    else
      match memRead off.toNat w.bytes s with
      | .ok bs => .next (deliver (sext32 (decodeSigned bs)) s)
      | .error e => .fault e
  else .next (noUpdate s)

/-- DEC: legal when `DONE = 1`, else refused (R150). -/
def execDec (w : Width) (off : Byte) (s : State) : Result :=
  if s.done then decodeField w off s else .next (refuse s)

/-- RDB in phase DONE (R151). `FERR` is neither read nor written. -/
def readRaw (off : Byte) (s : State) : Result :=
  if s.valid = true ∧ off.toNat < s.len.toNat then
    match memRead off.toNat 1 s with
    | .ok bs => .next (deliver (zext32 (bs.headD 0)) s)
    | .error e => .fault e
  else .next (noUpdate s)

/-- RDB: legal when `DONE = 1`, else refused (R151). -/
def execRdb (off : Byte) (s : State) : Result :=
  if s.done then readRaw off s else .next (refuse s)

end Sys2Proof.Machine
end

