-- ==== Sys2Proof/Machine/Dispatch.lean ====
section
/-! DEFINITION. The dispatch: one arm per row of spec/opcode_table.json. -/

namespace Sys2Proof.Machine

def exec (i : Instr) (s : State) : Host.Outcome State Fault Refusal :=
  match i with
  | .nop => Sys2Proof.Machine.execNop s
  | .sor => Sys2Proof.Machine.execSor s
  | .push b => Sys2Proof.Machine.execPush b s
  | .eor => Sys2Proof.Machine.execEor s
  | .dec w off => Sys2Proof.Machine.execDec w off s
  | .rdb off => Sys2Proof.Machine.execRdb off s
  | .ldo k b => Sys2Proof.Machine.execLdo k b s
  | .deco w => Sys2Proof.Machine.execDeco w s
  | .wrc v => Sys2Proof.Machine.execWrc v s
  | .rst => Sys2Proof.Machine.execRst s
  | .respRawImu len payload csum => Sys2Proof.Machine.execRespRawImu len payload csum s
  | .respMotor len payload csum => Sys2Proof.Machine.execRespMotor len payload csum s
  | .respRc len payload csum => Sys2Proof.Machine.execRespRc len payload csum s
  | .respAttitude len payload csum => Sys2Proof.Machine.execRespAttitude len payload csum s
  | .respAltitude len payload csum => Sys2Proof.Machine.execRespAltitude len payload csum s
  | .respSetRawRc len payload csum => Sys2Proof.Machine.execRespSetRawRc len payload csum s
  | .respOther len code payload csum => Sys2Proof.Machine.execRespOther len code payload csum s
  | .reqRawImu len payload csum => Sys2Proof.Machine.execReqRawImu len payload csum s
  | .reqMotor len payload csum => Sys2Proof.Machine.execReqMotor len payload csum s
  | .reqRc len payload csum => Sys2Proof.Machine.execReqRc len payload csum s
  | .reqAttitude len payload csum => Sys2Proof.Machine.execReqAttitude len payload csum s
  | .reqAltitude len payload csum => Sys2Proof.Machine.execReqAltitude len payload csum s
  | .cmdSetRawRc len payload csum => Sys2Proof.Machine.execCmdSetRawRc len payload csum s
  | .reqOther len code payload csum => Sys2Proof.Machine.execReqOther len code payload csum s

end Sys2Proof.Machine
end

