-- ==== Sys2Proof/Machine/Fetch.lean ====
section
/-! DEFINITION. What the block does with an input that is no row of the opcode table. -/

namespace Sys2Proof.Machine

/-- A word that selects no row is refused: `ERR <- 1`, no other change (R83, R168). A read that is no complete frame
goes through the parser like any other: `FEED raw` (R86, R124). -/
def performUndecoded (input : HostInput) (s : State) : Result :=
  match input with
  | .word _ => .next (refuse s)
  | .read raw => feed raw s

end Sys2Proof.Machine
end

