-- ==== Sys2Proof/Machine/Step.lean ====
section
/-! DEFINITION. The step: the block performs the oldest input on its port. -/

namespace Sys2Proof.Machine

/-- One step. No input: the host did nothing this turn, which is NOP (R165, R216; log 4). An input that decodes: its
instruction. A command word that does not: the refusal of an illegal encoding (R83, R168). A read that is no complete
frame: `FEED` of its bytes all the same (R86, R124). -/
def step (s : State) : Host.Outcome State Fault Refusal :=
  match s.port with
  | [] => .next s
  | input :: rest =>
    match decode input with
    | .ok i => exec i (setPort rest s)
    | .error _ => performUndecoded input (setPort rest s)

/-- The state with a table row's bits as the oldest input on the port (log 1, log 5). -/
def State.withFetchWord (s : State) (nbits w : Nat) : State :=
  setPort (tableInput nbits w :: s.port) s

end Sys2Proof.Machine
end

