-- ==== Sys2Proof/Machine/Reference.lean ====
section
/-! DEFINITION. The pure functions the rules name beside the operations: the checksum (R76), `Parse` (R124), `Field`
(R152), the frame builders (R78, R79), the document's own decoding procedure (R101), the pseudo-operations (R86), the
phase-legality table (R169), and the run of an operation sequence (R60). The operations do not call them; statements compare the two. -/

namespace Sys2Proof.Machine

/-! ## Checksum (R7, R76) -/

/-- `XOR(list)`, with `XOR([]) = 0` (R7). -/
def xorBytes : List Byte → Byte
  | [] => 0
  | b :: bs => b ^^^ xorBytes bs

/-- `Checksum(L, C, P)` (R76). -/
def checksum (len code : Byte) (payload : List Byte) : Byte := len ^^^ code ^^^ xorBytes payload

/-! ## Parse and Field (R124, R152) -/

/-- What `Parse` delivers when the frame is available (R124). -/
structure Frame where
  dir : Bool
  len : Byte
  code : Byte
  payload : List Byte
  cseen : Bool
  csok : Bool
  trail : Bool
deriving DecidableEq, Repr

/-- `Parse(raw, strict)` (R124): the frame, or the reason it is unavailable. -/
def parse (raw : List Byte) (strict : Bool) : Except Reason Frame :=
  match raw with
  | [] => .error .empty
  | b0 :: b1 :: b2 :: len :: code :: body =>
    if b0 ≠ Config.dollar ∨ b1 ≠ Config.letterM ∨ (b2 ≠ Config.requestChar ∧ b2 ≠ Config.responseChar) then
      .error .badHdr
    else if body.length < len.toNat then .error .trunc
    else
      let payload := body.take len.toNat
      let cseen := decide (len.toNat < body.length)
      let csok := cseen && decide (body.getD len.toNat 0 = checksum len code payload)
      if strict && !cseen then .error .noCsum
      else if strict && !csok then .error .badCsum
      else .ok ⟨decide (b2 = Config.responseChar), len, code, payload, cseen, csok,
        decide (len.toNat + 1 < body.length)⟩
  | _ => .error .short

/-- The reason's side of `Parse`: `none` when the frame is available. -/
def parseReason (raw : List Byte) (strict : Bool) : Reason :=
  match parse raw strict with
  | .ok _ => .none
  | .error r => r

/-- `Field(P, L, off, w)` (R152). -/
def field (payload : List Byte) (len off w : Nat) : Option Int :=
  if off + w ≤ len then some (decodeSigned ((payload.drop off).take w)) else none

/-! ## The frame builders (R78, R79) -/

/-- `BuildRequest(C)` (R78). -/
def buildRequest (code : Byte) : List Byte :=
  [Config.dollar, Config.letterM, Config.requestChar, 0, code, code]

/-- The domain of `BuildCommand`: at most 127 values, each an int16 (R79). -/
def buildable (v : List Int) : Bool :=
  decide (v.length ≤ 127) && v.all fun x => decide (-32768 ≤ x) && decide (x ≤ 32767)

/-- The payload of `BuildCommand`: each value as `lo, hi` (R79). -/
def int16Payload (v : List Int) : List Byte :=
  v.flatMap fun x => [BitVec.ofInt 8 (x % 65536 % 256), BitVec.ofInt 8 (x % 65536 / 256)]

/-- A frame built around int16 values, `none` outside the builder's domain (R79, 93 item U12). -/
def buildFrame (direction code : Byte) (v : List Int) : Option (List Byte) :=
  if buildable v then
    let len := BitVec.ofNat 8 (2 * v.length)
    some (frameBytes direction len code (int16Payload v) (checksum len code (int16Payload v)))
  else none

/-- `BuildCommand(C, V)` (R79). -/
def buildCommand (code : Byte) (v : List Int) : Option (List Byte) := buildFrame Config.requestChar code v

/-- `BuildResponse(C, V)` (R79). -/
def buildResponse (code : Byte) (v : List Int) : Option (List Byte) := buildFrame Config.responseChar code v

/-! ## The document's decoding procedure (R101) -/

/-- The 8 bits of a byte, least significant first. -/
def byteBits (b : Byte) : List Bool := (List.range 8).map fun i => b.getLsbD i

/-- The pattern `X` as bits, least significant first. -/
def patternBits (bs : List Byte) : List Bool := bs.flatMap byteBits

/-- The value of bits, least significant first. -/
def bitsValue : List Bool → Nat
  | [] => 0
  | b :: bs => b.toNat + 2 * bitsValue bs

/-- Keep the bits up to and with the rightmost set bit, complement those left of it (R101). -/
def complementAbove : List Bool → List Bool
  | [] => []
  | false :: bs => false :: complementAbove bs
  | true :: bs => true :: bs.map (!·)

/-- The document's algorithm, as exact bit manipulation (R101): negative patterns are complemented down to the bit
left of the rightmost set bit, and the result is negated. -/
def decodeSignedByBits (bs : List Byte) : Int :=
  if (patternBits bs).getLastD false then -(bitsValue (complementAbove (patternBits bs)) : Int)
  else (bitsValue (patternBits bs) : Int)

/-! ## Operation sequences (R60, R86) -/

/-- The state after a sequence of operations: the left fold of `exec` (R60). -/
def runAll : List Instr → State → Result
  | [], s => .next s
  | i :: is, s => andThen (exec i s) (runAll is)

/-- The pseudo-operations (R86). -/
inductive Pseudo where
  | feed (raw : List Byte)
  | dec16 (off : Byte)
  | dec32 (off : Byte)
  | dec8 (off : Byte)
  | deci (bs : List Byte)
  | strict
  | lax
deriving DecidableEq, Repr

/-- The expansion of `FEED` (R86). -/
def feedOps (raw : List Byte) : List Instr := .sor :: (raw.map Instr.push ++ [.eor])

/-- `LDO i, b` for each byte, from index `i` on. -/
def loadOps : Nat → List Byte → List Instr
  | _, [] => []
  | i, b :: bs => .ldo (Fin.ofNat 4 i) b :: loadOps (i + 1) bs

/-- The width of a list of 1 to 4 bytes. -/
def widthOfLength (n : Nat) : Option Width :=
  match n with
  | 1 => some .w1
  | 2 => some .w2
  | 3 => some .w3
  | 4 => some .w4
  | _ => none

/-- A pseudo-operation's fixed expansion; `DECI` takes 1 to 4 bytes (R86). -/
def Pseudo.expand : Pseudo → Option (List Instr)
  | .feed raw => some (feedOps raw)
  | .dec16 off => some [.dec .w2 off]
  | .dec32 off => some [.dec .w4 off]
  | .dec8 off => some [.dec .w1 off]
  | .deci bs => (widthOfLength bs.length).map fun w => loadOps 0 bs ++ [.deco w]
  | .strict => some [.wrc true]
  | .lax => some [.wrc false]

/-! ## The phase-legality table (R169) -/

/-- R169's table: the phase an operation leads to when it performs, `none` when it is refused. A frame row is a whole
`FEED`, which SOR makes legal in every phase and EOR ends in phase DONE. -/
def phaseTable (i : Instr) (p : Phase) : Option Phase :=
  match i, p with
  | .nop, p => some p
  | .sor, _ => some .opened
  | .push _, .opened => some .opened
  | .push _, _ => none
  | .eor, .opened => some .closed
  | .eor, _ => none
  | .dec _ _, .closed => some .closed
  | .dec _ _, _ => none
  | .rdb _, .closed => some .closed
  | .rdb _, _ => none
  | .ldo _ _, p => some p
  | .deco _, p => some p
  | .wrc _, .opened => none
  | .wrc _, p => some p
  | .rst, _ => some .idle
  | .respRawImu _ _ _, _ => some .closed
  | .respMotor _ _ _, _ => some .closed
  | .respRc _ _ _, _ => some .closed
  | .respAttitude _ _ _, _ => some .closed
  | .respAltitude _ _ _, _ => some .closed
  | .respSetRawRc _ _ _, _ => some .closed
  | .respOther _ _ _ _, _ => some .closed
  | .reqRawImu _ _ _, _ => some .closed
  | .reqMotor _ _ _, _ => some .closed
  | .reqRc _ _ _, _ => some .closed
  | .reqAttitude _ _ _, _ => some .closed
  | .reqAltitude _ _ _, _ => some .closed
  | .cmdSetRawRc _ _ _, _ => some .closed
  | .reqOther _ _ _ _, _ => some .closed

end Sys2Proof.Machine
end

