-- ==== Sys2Proof/Safety.lean ====
section
/-! DEFINITION. What claims are stated with: the invariants of R46, the states a run can reach, the payload bytes a
later operation can still see, and a run of steps. -/

namespace Sys2Proof.Machine

/-- How many bytes of `PAY` the current window has written: `min(CNT - 5, LEN)` (R28). -/
def written (s : State) : Nat := min (s.cnt.toNat - 5) s.len.toNat

/-- The bytes of `PAY` that the current window has written, lowest offset first. -/
def writtenBytes (s : State) : List Byte := (List.range (written s)).map (payByte s)

/-- What the running checksum holds at any moment (R29, R46 item 8): nothing before byte 3, then the XOR of the length,
the code and the payload bytes received so far. -/
def coveredXor (s : State) : Byte :=
  if s.cnt.toNat < 4 then 0
  else if s.cnt.toNat = 4 then s.len
  else checksum s.len s.code (writtenBytes s)

/-- The invariants of R46, as far as one state shows them (item 10 speaks of the moment of EOR, items 6 and 8 of the
window's bytes, which are stated over `FEED`), with the facts R26, R30, R36 and R47 add to them. -/
structure Inv (s : State) : Prop where
  /-- Item 1. -/
  one_phase : ¬(s.winOpen = true ∧ s.done = true)
  /-- Item 2. -/
  cnt_max : s.cnt.toNat ≤ 261
  /-- Item 2. -/
  cnt_frame : 4 ≤ s.cnt.toNat → s.cnt.toNat ≤ s.len.toNat + 6
  /-- Item 2. -/
  len_zero : s.cnt.toNat < 4 → s.len = 0
  /-- Item 2. -/
  code_zero : s.cnt.toNat < 5 → s.code = 0
  /-- Item 3. -/
  cseen_iff : s.cseen = true ↔ s.cnt.toNat = s.len.toNat + 6
  /-- R30: `CSB` is cleared by SOR and written with `CSEEN`. -/
  csb_zero : s.cseen = false → s.csb = 0
  /-- Item 4. -/
  trail_cseen : s.trail = true → s.cseen = true
  /-- R26. -/
  hbad_zero : s.cnt.toNat = 0 → s.hbad = false
  /-- R26. -/
  dir_zero : s.cnt.toNat < 3 → s.dir = false
  /-- Item 5. -/
  idle_clean : s.winOpen = false → s.done = false → s.cnt = 0 ∧ s.ferr = false
  /-- Item 6. -/
  valid_verdict : s.valid = true →
    s.done = true ∧ s.reason = .none ∧ s.hbad = false ∧ 5 ≤ s.cnt.toNat ∧ s.len.toNat + 5 ≤ s.cnt.toNat
  /-- Item 7. -/
  invalid_reason : s.done = true → s.valid = false → s.reason ≠ .none
  /-- Item 7. -/
  no_verdict : s.done = false → s.valid = false ∧ s.reason = .none ∧ s.csok = false
  /-- Item 8. -/
  xacc_covers : s.xacc = coveredXor s
  /-- R28: the window's payload bytes have been written. -/
  pay_written : ∀ k, k < written s → (Memory.read? s.pay k).isSome = true
  /-- Item 9. -/
  csok_means : s.csok = true → s.done = true ∧ s.cseen = true ∧ s.csb = s.xacc
  /-- Item 11. -/
  ferr_valid : s.ferr = true → s.valid = true
  /-- Item 11. -/
  hit_resv : s.hit = true → s.resv = true
  /-- R36: while `RESV = 0`, `RES` holds its reset value 0. -/
  resv_zero : s.resv = false → s.res = 0
  /-- The payload buffer keeps its canonical form (log 3). -/
  pay_wf : Memory.wf s.pay = true

/-- The states of a run: from reset, by steps, and by the host putting any input on the port (R6, R202). -/
inductive Reachable : State → Prop where
  | reset : Reachable State.reset
  | step (s t : State) : Reachable s → step s = .next t → Reachable t
  | issue (s : State) (input : HostInput) : Reachable s → Reachable (setPort (s.port ++ [input]) s)

/-- Two states that differ at most in bytes of `PAY` that the current window has not written: what R28 and R47 call
unobservable. -/
def Alike (s t : State) : Prop :=
  t = { s with pay := t.pay } ∧ ∀ k, k < written s → payByte s k = payByte t k

/-- `k` steps. -/
def runSteps : Nat → State → Result
  | 0, s => .next s
  | k + 1, s => andThen (step s) (runSteps k)

/-- The frame rows of the opcode table (R87). -/
def isFrameRow : Instr → Bool
  | .nop => false
  | .sor => false
  | .push _ => false
  | .eor => false
  | .dec _ _ => false
  | .rdb _ => false
  | .ldo _ _ => false
  | .deco _ => false
  | .wrc _ => false
  | .rst => false
  | .respRawImu _ _ _ => true
  | .respMotor _ _ _ => true
  | .respRc _ _ _ => true
  | .respAttitude _ _ _ => true
  | .respAltitude _ _ _ => true
  | .respSetRawRc _ _ _ => true
  | .respOther _ _ _ _ => true
  | .reqRawImu _ _ _ => true
  | .reqMotor _ _ _ => true
  | .reqRc _ _ _ => true
  | .reqAttitude _ _ _ => true
  | .reqAltitude _ _ _ => true
  | .cmdSetRawRc _ _ _ => true
  | .reqOther _ _ _ _ => true

/-- The operations that neither start a new window nor reset: those a host may issue between one EOR and the next SOR
without leaving the frame (R32, R56). -/
def keepsWindow (i : Instr) : Prop := i ≠ .sor ∧ i ≠ .rst ∧ isFrameRow i = false

/-- What a complete frame leaves, from any state: R124's table for a read that is exactly one frame with these fields.
`dir` and `cls` are the row's direction bit and its `CAT`. -/
def FrameDelivered (s : State) (dir : Bool) (cls : BitVec 3) (len code : Byte) (payload : List Byte) (csum : Byte)
    (r : Result) : Prop :=
  ∃ t, r = .next t ∧
    t = { s with
          winOpen := false, done := true
          cnt := BitVec.ofNat 9 (len.toNat + 6), hbad := false, dir := dir, len := len, code := code, pay := t.pay
          xacc := checksum len code payload, csb := csum, cseen := true, trail := false
          valid := !(s.strict && decide (csum ≠ checksum len code payload))
          reason := if s.strict && decide (csum ≠ checksum len code payload) then .badCsum else .none
          csok := decide (csum = checksum len code payload)
          ferr := false, hit := false } ∧
    (∀ k, Memory.read? t.pay k = if k < len.toNat then payload[k]? else Memory.read? s.pay k) ∧
    cat t = cls

end Sys2Proof.Machine
end

