-- ==== Sys2Proof/Laws/State.lean ====
section
/-! SUPPORT. One lemma per field per update of the state, each true by rfl, so that no later proof unfolds an update. -/

namespace Sys2Proof.Machine

@[simp] theorem reset_strict : State.reset.strict = false := rfl
@[simp] theorem reset_winOpen : State.reset.winOpen = false := rfl
@[simp] theorem reset_cnt : State.reset.cnt = 0 := rfl
@[simp] theorem reset_hbad : State.reset.hbad = false := rfl
@[simp] theorem reset_dir : State.reset.dir = false := rfl
@[simp] theorem reset_len : State.reset.len = 0 := rfl
@[simp] theorem reset_code : State.reset.code = 0 := rfl
@[simp] theorem reset_pay : State.reset.pay = [] := rfl
@[simp] theorem reset_xacc : State.reset.xacc = 0 := rfl
@[simp] theorem reset_csb : State.reset.csb = 0 := rfl
@[simp] theorem reset_cseen : State.reset.cseen = false := rfl
@[simp] theorem reset_trail : State.reset.trail = false := rfl
@[simp] theorem reset_done : State.reset.done = false := rfl
@[simp] theorem reset_valid : State.reset.valid = false := rfl
@[simp] theorem reset_reason : State.reset.reason = .none := rfl
@[simp] theorem reset_csok : State.reset.csok = false := rfl
@[simp] theorem reset_ferr : State.reset.ferr = false := rfl
@[simp] theorem reset_hit : State.reset.hit = false := rfl
@[simp] theorem reset_resv : State.reset.resv = false := rfl
@[simp] theorem reset_res : State.reset.res = 0 := rfl
@[simp] theorem reset_opb : State.reset.opb = Vector.replicate 4 0 := rfl
@[simp] theorem reset_err : State.reset.err = false := rfl
@[simp] theorem reset_port : State.reset.port = [] := rfl

/-! `refuse` -/

@[simp] theorem refuse_strict (s : State) : (refuse s).strict = s.strict := rfl
@[simp] theorem refuse_winOpen (s : State) : (refuse s).winOpen = s.winOpen := rfl
@[simp] theorem refuse_cnt (s : State) : (refuse s).cnt = s.cnt := rfl
@[simp] theorem refuse_hbad (s : State) : (refuse s).hbad = s.hbad := rfl
@[simp] theorem refuse_dir (s : State) : (refuse s).dir = s.dir := rfl
@[simp] theorem refuse_len (s : State) : (refuse s).len = s.len := rfl
@[simp] theorem refuse_code (s : State) : (refuse s).code = s.code := rfl
@[simp] theorem refuse_pay (s : State) : (refuse s).pay = s.pay := rfl
@[simp] theorem refuse_xacc (s : State) : (refuse s).xacc = s.xacc := rfl
@[simp] theorem refuse_csb (s : State) : (refuse s).csb = s.csb := rfl
@[simp] theorem refuse_cseen (s : State) : (refuse s).cseen = s.cseen := rfl
@[simp] theorem refuse_trail (s : State) : (refuse s).trail = s.trail := rfl
@[simp] theorem refuse_done (s : State) : (refuse s).done = s.done := rfl
@[simp] theorem refuse_valid (s : State) : (refuse s).valid = s.valid := rfl
@[simp] theorem refuse_reason (s : State) : (refuse s).reason = s.reason := rfl
@[simp] theorem refuse_csok (s : State) : (refuse s).csok = s.csok := rfl
@[simp] theorem refuse_ferr (s : State) : (refuse s).ferr = s.ferr := rfl
@[simp] theorem refuse_hit (s : State) : (refuse s).hit = s.hit := rfl
@[simp] theorem refuse_resv (s : State) : (refuse s).resv = s.resv := rfl
@[simp] theorem refuse_res (s : State) : (refuse s).res = s.res := rfl
@[simp] theorem refuse_opb (s : State) : (refuse s).opb = s.opb := rfl
@[simp] theorem refuse_err (s : State) : (refuse s).err = true := rfl
@[simp] theorem refuse_port (s : State) : (refuse s).port = s.port := rfl

/-! `raiseUnavailable` -/

@[simp] theorem raiseUnavailable_strict (r : Reason) (s : State) : (raiseUnavailable r s).strict = s.strict := rfl
@[simp] theorem raiseUnavailable_winOpen (r : Reason) (s : State) : (raiseUnavailable r s).winOpen = s.winOpen := rfl
@[simp] theorem raiseUnavailable_cnt (r : Reason) (s : State) : (raiseUnavailable r s).cnt = s.cnt := rfl
@[simp] theorem raiseUnavailable_hbad (r : Reason) (s : State) : (raiseUnavailable r s).hbad = s.hbad := rfl
@[simp] theorem raiseUnavailable_dir (r : Reason) (s : State) : (raiseUnavailable r s).dir = s.dir := rfl
@[simp] theorem raiseUnavailable_len (r : Reason) (s : State) : (raiseUnavailable r s).len = s.len := rfl
@[simp] theorem raiseUnavailable_code (r : Reason) (s : State) : (raiseUnavailable r s).code = s.code := rfl
@[simp] theorem raiseUnavailable_pay (r : Reason) (s : State) : (raiseUnavailable r s).pay = s.pay := rfl
@[simp] theorem raiseUnavailable_xacc (r : Reason) (s : State) : (raiseUnavailable r s).xacc = s.xacc := rfl
@[simp] theorem raiseUnavailable_csb (r : Reason) (s : State) : (raiseUnavailable r s).csb = s.csb := rfl
@[simp] theorem raiseUnavailable_cseen (r : Reason) (s : State) : (raiseUnavailable r s).cseen = s.cseen := rfl
@[simp] theorem raiseUnavailable_trail (r : Reason) (s : State) : (raiseUnavailable r s).trail = s.trail := rfl
@[simp] theorem raiseUnavailable_done (r : Reason) (s : State) : (raiseUnavailable r s).done = s.done := rfl
@[simp] theorem raiseUnavailable_valid (r : Reason) (s : State) : (raiseUnavailable r s).valid = false := rfl
@[simp] theorem raiseUnavailable_reason (r : Reason) (s : State) : (raiseUnavailable r s).reason = r := rfl
@[simp] theorem raiseUnavailable_csok (r : Reason) (s : State) : (raiseUnavailable r s).csok = s.csok := rfl
@[simp] theorem raiseUnavailable_ferr (r : Reason) (s : State) : (raiseUnavailable r s).ferr = s.ferr := rfl
@[simp] theorem raiseUnavailable_hit (r : Reason) (s : State) : (raiseUnavailable r s).hit = s.hit := rfl
@[simp] theorem raiseUnavailable_resv (r : Reason) (s : State) : (raiseUnavailable r s).resv = s.resv := rfl
@[simp] theorem raiseUnavailable_res (r : Reason) (s : State) : (raiseUnavailable r s).res = s.res := rfl
@[simp] theorem raiseUnavailable_opb (r : Reason) (s : State) : (raiseUnavailable r s).opb = s.opb := rfl
@[simp] theorem raiseUnavailable_err (r : Reason) (s : State) : (raiseUnavailable r s).err = s.err := rfl
@[simp] theorem raiseUnavailable_port (r : Reason) (s : State) : (raiseUnavailable r s).port = s.port := rfl

/-! `raiseMalformed` -/

@[simp] theorem raiseMalformed_strict (s : State) : (raiseMalformed s).strict = s.strict := rfl
@[simp] theorem raiseMalformed_winOpen (s : State) : (raiseMalformed s).winOpen = s.winOpen := rfl
@[simp] theorem raiseMalformed_cnt (s : State) : (raiseMalformed s).cnt = s.cnt := rfl
@[simp] theorem raiseMalformed_hbad (s : State) : (raiseMalformed s).hbad = s.hbad := rfl
@[simp] theorem raiseMalformed_dir (s : State) : (raiseMalformed s).dir = s.dir := rfl
@[simp] theorem raiseMalformed_len (s : State) : (raiseMalformed s).len = s.len := rfl
@[simp] theorem raiseMalformed_code (s : State) : (raiseMalformed s).code = s.code := rfl
@[simp] theorem raiseMalformed_pay (s : State) : (raiseMalformed s).pay = s.pay := rfl
@[simp] theorem raiseMalformed_xacc (s : State) : (raiseMalformed s).xacc = s.xacc := rfl
@[simp] theorem raiseMalformed_csb (s : State) : (raiseMalformed s).csb = s.csb := rfl
@[simp] theorem raiseMalformed_cseen (s : State) : (raiseMalformed s).cseen = s.cseen := rfl
@[simp] theorem raiseMalformed_trail (s : State) : (raiseMalformed s).trail = s.trail := rfl
@[simp] theorem raiseMalformed_done (s : State) : (raiseMalformed s).done = s.done := rfl
@[simp] theorem raiseMalformed_valid (s : State) : (raiseMalformed s).valid = s.valid := rfl
@[simp] theorem raiseMalformed_reason (s : State) : (raiseMalformed s).reason = s.reason := rfl
@[simp] theorem raiseMalformed_csok (s : State) : (raiseMalformed s).csok = s.csok := rfl
@[simp] theorem raiseMalformed_ferr (s : State) : (raiseMalformed s).ferr = true := rfl
@[simp] theorem raiseMalformed_hit (s : State) : (raiseMalformed s).hit = false := rfl
@[simp] theorem raiseMalformed_resv (s : State) : (raiseMalformed s).resv = s.resv := rfl
@[simp] theorem raiseMalformed_res (s : State) : (raiseMalformed s).res = s.res := rfl
@[simp] theorem raiseMalformed_opb (s : State) : (raiseMalformed s).opb = s.opb := rfl
@[simp] theorem raiseMalformed_err (s : State) : (raiseMalformed s).err = s.err := rfl
@[simp] theorem raiseMalformed_port (s : State) : (raiseMalformed s).port = s.port := rfl

/-! `noUpdate` -/

@[simp] theorem noUpdate_strict (s : State) : (noUpdate s).strict = s.strict := rfl
@[simp] theorem noUpdate_winOpen (s : State) : (noUpdate s).winOpen = s.winOpen := rfl
@[simp] theorem noUpdate_cnt (s : State) : (noUpdate s).cnt = s.cnt := rfl
@[simp] theorem noUpdate_hbad (s : State) : (noUpdate s).hbad = s.hbad := rfl
@[simp] theorem noUpdate_dir (s : State) : (noUpdate s).dir = s.dir := rfl
@[simp] theorem noUpdate_len (s : State) : (noUpdate s).len = s.len := rfl
@[simp] theorem noUpdate_code (s : State) : (noUpdate s).code = s.code := rfl
@[simp] theorem noUpdate_pay (s : State) : (noUpdate s).pay = s.pay := rfl
@[simp] theorem noUpdate_xacc (s : State) : (noUpdate s).xacc = s.xacc := rfl
@[simp] theorem noUpdate_csb (s : State) : (noUpdate s).csb = s.csb := rfl
@[simp] theorem noUpdate_cseen (s : State) : (noUpdate s).cseen = s.cseen := rfl
@[simp] theorem noUpdate_trail (s : State) : (noUpdate s).trail = s.trail := rfl
@[simp] theorem noUpdate_done (s : State) : (noUpdate s).done = s.done := rfl
@[simp] theorem noUpdate_valid (s : State) : (noUpdate s).valid = s.valid := rfl
@[simp] theorem noUpdate_reason (s : State) : (noUpdate s).reason = s.reason := rfl
@[simp] theorem noUpdate_csok (s : State) : (noUpdate s).csok = s.csok := rfl
@[simp] theorem noUpdate_ferr (s : State) : (noUpdate s).ferr = s.ferr := rfl
@[simp] theorem noUpdate_hit (s : State) : (noUpdate s).hit = false := rfl
@[simp] theorem noUpdate_resv (s : State) : (noUpdate s).resv = s.resv := rfl
@[simp] theorem noUpdate_res (s : State) : (noUpdate s).res = s.res := rfl
@[simp] theorem noUpdate_opb (s : State) : (noUpdate s).opb = s.opb := rfl
@[simp] theorem noUpdate_err (s : State) : (noUpdate s).err = s.err := rfl
@[simp] theorem noUpdate_port (s : State) : (noUpdate s).port = s.port := rfl

/-! `deliver` -/

@[simp] theorem deliver_strict (v : Word32) (s : State) : (deliver v s).strict = s.strict := rfl
@[simp] theorem deliver_winOpen (v : Word32) (s : State) : (deliver v s).winOpen = s.winOpen := rfl
@[simp] theorem deliver_cnt (v : Word32) (s : State) : (deliver v s).cnt = s.cnt := rfl
@[simp] theorem deliver_hbad (v : Word32) (s : State) : (deliver v s).hbad = s.hbad := rfl
@[simp] theorem deliver_dir (v : Word32) (s : State) : (deliver v s).dir = s.dir := rfl
@[simp] theorem deliver_len (v : Word32) (s : State) : (deliver v s).len = s.len := rfl
@[simp] theorem deliver_code (v : Word32) (s : State) : (deliver v s).code = s.code := rfl
@[simp] theorem deliver_pay (v : Word32) (s : State) : (deliver v s).pay = s.pay := rfl
@[simp] theorem deliver_xacc (v : Word32) (s : State) : (deliver v s).xacc = s.xacc := rfl
@[simp] theorem deliver_csb (v : Word32) (s : State) : (deliver v s).csb = s.csb := rfl
@[simp] theorem deliver_cseen (v : Word32) (s : State) : (deliver v s).cseen = s.cseen := rfl
@[simp] theorem deliver_trail (v : Word32) (s : State) : (deliver v s).trail = s.trail := rfl
@[simp] theorem deliver_done (v : Word32) (s : State) : (deliver v s).done = s.done := rfl
@[simp] theorem deliver_valid (v : Word32) (s : State) : (deliver v s).valid = s.valid := rfl
@[simp] theorem deliver_reason (v : Word32) (s : State) : (deliver v s).reason = s.reason := rfl
@[simp] theorem deliver_csok (v : Word32) (s : State) : (deliver v s).csok = s.csok := rfl
@[simp] theorem deliver_ferr (v : Word32) (s : State) : (deliver v s).ferr = s.ferr := rfl
@[simp] theorem deliver_hit (v : Word32) (s : State) : (deliver v s).hit = true := rfl
@[simp] theorem deliver_resv (v : Word32) (s : State) : (deliver v s).resv = true := rfl
@[simp] theorem deliver_res (v : Word32) (s : State) : (deliver v s).res = v := rfl
@[simp] theorem deliver_opb (v : Word32) (s : State) : (deliver v s).opb = s.opb := rfl
@[simp] theorem deliver_err (v : Word32) (s : State) : (deliver v s).err = s.err := rfl
@[simp] theorem deliver_port (v : Word32) (s : State) : (deliver v s).port = s.port := rfl

/-! `acceptFrame` -/

@[simp] theorem acceptFrame_strict (s : State) : (acceptFrame s).strict = s.strict := rfl
@[simp] theorem acceptFrame_winOpen (s : State) : (acceptFrame s).winOpen = s.winOpen := rfl
@[simp] theorem acceptFrame_cnt (s : State) : (acceptFrame s).cnt = s.cnt := rfl
@[simp] theorem acceptFrame_hbad (s : State) : (acceptFrame s).hbad = s.hbad := rfl
@[simp] theorem acceptFrame_dir (s : State) : (acceptFrame s).dir = s.dir := rfl
@[simp] theorem acceptFrame_len (s : State) : (acceptFrame s).len = s.len := rfl
@[simp] theorem acceptFrame_code (s : State) : (acceptFrame s).code = s.code := rfl
@[simp] theorem acceptFrame_pay (s : State) : (acceptFrame s).pay = s.pay := rfl
@[simp] theorem acceptFrame_xacc (s : State) : (acceptFrame s).xacc = s.xacc := rfl
@[simp] theorem acceptFrame_csb (s : State) : (acceptFrame s).csb = s.csb := rfl
@[simp] theorem acceptFrame_cseen (s : State) : (acceptFrame s).cseen = s.cseen := rfl
@[simp] theorem acceptFrame_trail (s : State) : (acceptFrame s).trail = s.trail := rfl
@[simp] theorem acceptFrame_done (s : State) : (acceptFrame s).done = s.done := rfl
@[simp] theorem acceptFrame_valid (s : State) : (acceptFrame s).valid = true := rfl
@[simp] theorem acceptFrame_reason (s : State) : (acceptFrame s).reason = .none := rfl
@[simp] theorem acceptFrame_csok (s : State) : (acceptFrame s).csok = s.csok := rfl
@[simp] theorem acceptFrame_ferr (s : State) : (acceptFrame s).ferr = s.ferr := rfl
@[simp] theorem acceptFrame_hit (s : State) : (acceptFrame s).hit = s.hit := rfl
@[simp] theorem acceptFrame_resv (s : State) : (acceptFrame s).resv = s.resv := rfl
@[simp] theorem acceptFrame_res (s : State) : (acceptFrame s).res = s.res := rfl
@[simp] theorem acceptFrame_opb (s : State) : (acceptFrame s).opb = s.opb := rfl
@[simp] theorem acceptFrame_err (s : State) : (acceptFrame s).err = s.err := rfl
@[simp] theorem acceptFrame_port (s : State) : (acceptFrame s).port = s.port := rfl

/-! `openWindow` -/

@[simp] theorem openWindow_strict (s : State) : (openWindow s).strict = s.strict := rfl
@[simp] theorem openWindow_winOpen (s : State) : (openWindow s).winOpen = true := rfl
@[simp] theorem openWindow_cnt (s : State) : (openWindow s).cnt = 0 := rfl
@[simp] theorem openWindow_hbad (s : State) : (openWindow s).hbad = false := rfl
@[simp] theorem openWindow_dir (s : State) : (openWindow s).dir = false := rfl
@[simp] theorem openWindow_len (s : State) : (openWindow s).len = 0 := rfl
@[simp] theorem openWindow_code (s : State) : (openWindow s).code = 0 := rfl
@[simp] theorem openWindow_pay (s : State) : (openWindow s).pay = s.pay := rfl
@[simp] theorem openWindow_xacc (s : State) : (openWindow s).xacc = 0 := rfl
@[simp] theorem openWindow_csb (s : State) : (openWindow s).csb = 0 := rfl
@[simp] theorem openWindow_cseen (s : State) : (openWindow s).cseen = false := rfl
@[simp] theorem openWindow_trail (s : State) : (openWindow s).trail = false := rfl
@[simp] theorem openWindow_done (s : State) : (openWindow s).done = false := rfl
@[simp] theorem openWindow_valid (s : State) : (openWindow s).valid = false := rfl
@[simp] theorem openWindow_reason (s : State) : (openWindow s).reason = .none := rfl
@[simp] theorem openWindow_csok (s : State) : (openWindow s).csok = false := rfl
@[simp] theorem openWindow_ferr (s : State) : (openWindow s).ferr = false := rfl
@[simp] theorem openWindow_hit (s : State) : (openWindow s).hit = false := rfl
@[simp] theorem openWindow_resv (s : State) : (openWindow s).resv = s.resv := rfl
@[simp] theorem openWindow_res (s : State) : (openWindow s).res = s.res := rfl
@[simp] theorem openWindow_opb (s : State) : (openWindow s).opb = s.opb := rfl
@[simp] theorem openWindow_err (s : State) : (openWindow s).err = s.err := rfl
@[simp] theorem openWindow_port (s : State) : (openWindow s).port = s.port := rfl

/-! `closeWindow` -/

@[simp] theorem closeWindow_strict (s : State) : (closeWindow s).strict = s.strict := rfl
@[simp] theorem closeWindow_winOpen (s : State) : (closeWindow s).winOpen = false := rfl
@[simp] theorem closeWindow_cnt (s : State) : (closeWindow s).cnt = s.cnt := rfl
@[simp] theorem closeWindow_hbad (s : State) : (closeWindow s).hbad = s.hbad := rfl
@[simp] theorem closeWindow_dir (s : State) : (closeWindow s).dir = s.dir := rfl
@[simp] theorem closeWindow_len (s : State) : (closeWindow s).len = s.len := rfl
@[simp] theorem closeWindow_code (s : State) : (closeWindow s).code = s.code := rfl
@[simp] theorem closeWindow_pay (s : State) : (closeWindow s).pay = s.pay := rfl
@[simp] theorem closeWindow_xacc (s : State) : (closeWindow s).xacc = s.xacc := rfl
@[simp] theorem closeWindow_csb (s : State) : (closeWindow s).csb = s.csb := rfl
@[simp] theorem closeWindow_cseen (s : State) : (closeWindow s).cseen = s.cseen := rfl
@[simp] theorem closeWindow_trail (s : State) : (closeWindow s).trail = s.trail := rfl
@[simp] theorem closeWindow_done (s : State) : (closeWindow s).done = true := rfl
@[simp] theorem closeWindow_valid (s : State) : (closeWindow s).valid = s.valid := rfl
@[simp] theorem closeWindow_reason (s : State) : (closeWindow s).reason = s.reason := rfl
@[simp] theorem closeWindow_csok (s : State) : (closeWindow s).csok = (s.cseen && decide (s.csb = s.xacc)) := rfl
@[simp] theorem closeWindow_ferr (s : State) : (closeWindow s).ferr = s.ferr := rfl
@[simp] theorem closeWindow_hit (s : State) : (closeWindow s).hit = s.hit := rfl
@[simp] theorem closeWindow_resv (s : State) : (closeWindow s).resv = s.resv := rfl
@[simp] theorem closeWindow_res (s : State) : (closeWindow s).res = s.res := rfl
@[simp] theorem closeWindow_opb (s : State) : (closeWindow s).opb = s.opb := rfl
@[simp] theorem closeWindow_err (s : State) : (closeWindow s).err = s.err := rfl
@[simp] theorem closeWindow_port (s : State) : (closeWindow s).port = s.port := rfl

/-! `advance` -/

@[simp] theorem advance_strict (s : State) : (advance s).strict = s.strict := rfl
@[simp] theorem advance_winOpen (s : State) : (advance s).winOpen = s.winOpen := rfl
@[simp] theorem advance_cnt (s : State) : (advance s).cnt = s.cnt + 1 := rfl
@[simp] theorem advance_hbad (s : State) : (advance s).hbad = s.hbad := rfl
@[simp] theorem advance_dir (s : State) : (advance s).dir = s.dir := rfl
@[simp] theorem advance_len (s : State) : (advance s).len = s.len := rfl
@[simp] theorem advance_code (s : State) : (advance s).code = s.code := rfl
@[simp] theorem advance_pay (s : State) : (advance s).pay = s.pay := rfl
@[simp] theorem advance_xacc (s : State) : (advance s).xacc = s.xacc := rfl
@[simp] theorem advance_csb (s : State) : (advance s).csb = s.csb := rfl
@[simp] theorem advance_cseen (s : State) : (advance s).cseen = s.cseen := rfl
@[simp] theorem advance_trail (s : State) : (advance s).trail = s.trail := rfl
@[simp] theorem advance_done (s : State) : (advance s).done = s.done := rfl
@[simp] theorem advance_valid (s : State) : (advance s).valid = s.valid := rfl
@[simp] theorem advance_reason (s : State) : (advance s).reason = s.reason := rfl
@[simp] theorem advance_csok (s : State) : (advance s).csok = s.csok := rfl
@[simp] theorem advance_ferr (s : State) : (advance s).ferr = s.ferr := rfl
@[simp] theorem advance_hit (s : State) : (advance s).hit = s.hit := rfl
@[simp] theorem advance_resv (s : State) : (advance s).resv = s.resv := rfl
@[simp] theorem advance_res (s : State) : (advance s).res = s.res := rfl
@[simp] theorem advance_opb (s : State) : (advance s).opb = s.opb := rfl
@[simp] theorem advance_err (s : State) : (advance s).err = s.err := rfl
@[simp] theorem advance_port (s : State) : (advance s).port = s.port := rfl

/-! `setOperand` -/

@[simp] theorem setOperand_strict (i : Fin 4) (b : Byte) (s : State) : (setOperand i b s).strict = s.strict := rfl
@[simp] theorem setOperand_winOpen (i : Fin 4) (b : Byte) (s : State) : (setOperand i b s).winOpen = s.winOpen := rfl
@[simp] theorem setOperand_cnt (i : Fin 4) (b : Byte) (s : State) : (setOperand i b s).cnt = s.cnt := rfl
@[simp] theorem setOperand_hbad (i : Fin 4) (b : Byte) (s : State) : (setOperand i b s).hbad = s.hbad := rfl
@[simp] theorem setOperand_dir (i : Fin 4) (b : Byte) (s : State) : (setOperand i b s).dir = s.dir := rfl
@[simp] theorem setOperand_len (i : Fin 4) (b : Byte) (s : State) : (setOperand i b s).len = s.len := rfl
@[simp] theorem setOperand_code (i : Fin 4) (b : Byte) (s : State) : (setOperand i b s).code = s.code := rfl
@[simp] theorem setOperand_pay (i : Fin 4) (b : Byte) (s : State) : (setOperand i b s).pay = s.pay := rfl
@[simp] theorem setOperand_xacc (i : Fin 4) (b : Byte) (s : State) : (setOperand i b s).xacc = s.xacc := rfl
@[simp] theorem setOperand_csb (i : Fin 4) (b : Byte) (s : State) : (setOperand i b s).csb = s.csb := rfl
@[simp] theorem setOperand_cseen (i : Fin 4) (b : Byte) (s : State) : (setOperand i b s).cseen = s.cseen := rfl
@[simp] theorem setOperand_trail (i : Fin 4) (b : Byte) (s : State) : (setOperand i b s).trail = s.trail := rfl
@[simp] theorem setOperand_done (i : Fin 4) (b : Byte) (s : State) : (setOperand i b s).done = s.done := rfl
@[simp] theorem setOperand_valid (i : Fin 4) (b : Byte) (s : State) : (setOperand i b s).valid = s.valid := rfl
@[simp] theorem setOperand_reason (i : Fin 4) (b : Byte) (s : State) : (setOperand i b s).reason = s.reason := rfl
@[simp] theorem setOperand_csok (i : Fin 4) (b : Byte) (s : State) : (setOperand i b s).csok = s.csok := rfl
@[simp] theorem setOperand_ferr (i : Fin 4) (b : Byte) (s : State) : (setOperand i b s).ferr = s.ferr := rfl
@[simp] theorem setOperand_hit (i : Fin 4) (b : Byte) (s : State) : (setOperand i b s).hit = s.hit := rfl
@[simp] theorem setOperand_resv (i : Fin 4) (b : Byte) (s : State) : (setOperand i b s).resv = s.resv := rfl
@[simp] theorem setOperand_res (i : Fin 4) (b : Byte) (s : State) : (setOperand i b s).res = s.res := rfl
@[simp] theorem setOperand_opb (i : Fin 4) (b : Byte) (s : State) : (setOperand i b s).opb = s.opb.set i.val b i.isLt := rfl
@[simp] theorem setOperand_err (i : Fin 4) (b : Byte) (s : State) : (setOperand i b s).err = s.err := rfl
@[simp] theorem setOperand_port (i : Fin 4) (b : Byte) (s : State) : (setOperand i b s).port = s.port := rfl

/-! `setStrict` -/

@[simp] theorem setStrict_strict (v : Bool) (s : State) : (setStrict v s).strict = v := rfl
@[simp] theorem setStrict_winOpen (v : Bool) (s : State) : (setStrict v s).winOpen = s.winOpen := rfl
@[simp] theorem setStrict_cnt (v : Bool) (s : State) : (setStrict v s).cnt = s.cnt := rfl
@[simp] theorem setStrict_hbad (v : Bool) (s : State) : (setStrict v s).hbad = s.hbad := rfl
@[simp] theorem setStrict_dir (v : Bool) (s : State) : (setStrict v s).dir = s.dir := rfl
@[simp] theorem setStrict_len (v : Bool) (s : State) : (setStrict v s).len = s.len := rfl
@[simp] theorem setStrict_code (v : Bool) (s : State) : (setStrict v s).code = s.code := rfl
@[simp] theorem setStrict_pay (v : Bool) (s : State) : (setStrict v s).pay = s.pay := rfl
@[simp] theorem setStrict_xacc (v : Bool) (s : State) : (setStrict v s).xacc = s.xacc := rfl
@[simp] theorem setStrict_csb (v : Bool) (s : State) : (setStrict v s).csb = s.csb := rfl
@[simp] theorem setStrict_cseen (v : Bool) (s : State) : (setStrict v s).cseen = s.cseen := rfl
@[simp] theorem setStrict_trail (v : Bool) (s : State) : (setStrict v s).trail = s.trail := rfl
@[simp] theorem setStrict_done (v : Bool) (s : State) : (setStrict v s).done = s.done := rfl
@[simp] theorem setStrict_valid (v : Bool) (s : State) : (setStrict v s).valid = s.valid := rfl
@[simp] theorem setStrict_reason (v : Bool) (s : State) : (setStrict v s).reason = s.reason := rfl
@[simp] theorem setStrict_csok (v : Bool) (s : State) : (setStrict v s).csok = s.csok := rfl
@[simp] theorem setStrict_ferr (v : Bool) (s : State) : (setStrict v s).ferr = s.ferr := rfl
@[simp] theorem setStrict_hit (v : Bool) (s : State) : (setStrict v s).hit = s.hit := rfl
@[simp] theorem setStrict_resv (v : Bool) (s : State) : (setStrict v s).resv = s.resv := rfl
@[simp] theorem setStrict_res (v : Bool) (s : State) : (setStrict v s).res = s.res := rfl
@[simp] theorem setStrict_opb (v : Bool) (s : State) : (setStrict v s).opb = s.opb := rfl
@[simp] theorem setStrict_err (v : Bool) (s : State) : (setStrict v s).err = s.err := rfl
@[simp] theorem setStrict_port (v : Bool) (s : State) : (setStrict v s).port = s.port := rfl

/-! `resetBlock` -/

@[simp] theorem resetBlock_strict (s : State) : (resetBlock s).strict = State.reset.strict := rfl
@[simp] theorem resetBlock_winOpen (s : State) : (resetBlock s).winOpen = State.reset.winOpen := rfl
@[simp] theorem resetBlock_cnt (s : State) : (resetBlock s).cnt = State.reset.cnt := rfl
@[simp] theorem resetBlock_hbad (s : State) : (resetBlock s).hbad = State.reset.hbad := rfl
@[simp] theorem resetBlock_dir (s : State) : (resetBlock s).dir = State.reset.dir := rfl
@[simp] theorem resetBlock_len (s : State) : (resetBlock s).len = State.reset.len := rfl
@[simp] theorem resetBlock_code (s : State) : (resetBlock s).code = State.reset.code := rfl
@[simp] theorem resetBlock_pay (s : State) : (resetBlock s).pay = State.reset.pay := rfl
@[simp] theorem resetBlock_xacc (s : State) : (resetBlock s).xacc = State.reset.xacc := rfl
@[simp] theorem resetBlock_csb (s : State) : (resetBlock s).csb = State.reset.csb := rfl
@[simp] theorem resetBlock_cseen (s : State) : (resetBlock s).cseen = State.reset.cseen := rfl
@[simp] theorem resetBlock_trail (s : State) : (resetBlock s).trail = State.reset.trail := rfl
@[simp] theorem resetBlock_done (s : State) : (resetBlock s).done = State.reset.done := rfl
@[simp] theorem resetBlock_valid (s : State) : (resetBlock s).valid = State.reset.valid := rfl
@[simp] theorem resetBlock_reason (s : State) : (resetBlock s).reason = State.reset.reason := rfl
@[simp] theorem resetBlock_csok (s : State) : (resetBlock s).csok = State.reset.csok := rfl
@[simp] theorem resetBlock_ferr (s : State) : (resetBlock s).ferr = State.reset.ferr := rfl
@[simp] theorem resetBlock_hit (s : State) : (resetBlock s).hit = State.reset.hit := rfl
@[simp] theorem resetBlock_resv (s : State) : (resetBlock s).resv = State.reset.resv := rfl
@[simp] theorem resetBlock_res (s : State) : (resetBlock s).res = State.reset.res := rfl
@[simp] theorem resetBlock_opb (s : State) : (resetBlock s).opb = State.reset.opb := rfl
@[simp] theorem resetBlock_err (s : State) : (resetBlock s).err = State.reset.err := rfl
@[simp] theorem resetBlock_port (s : State) : (resetBlock s).port = s.port := rfl

/-! `setPort` -/

@[simp] theorem setPort_strict (p : List HostInput) (s : State) : (setPort p s).strict = s.strict := rfl
@[simp] theorem setPort_winOpen (p : List HostInput) (s : State) : (setPort p s).winOpen = s.winOpen := rfl
@[simp] theorem setPort_cnt (p : List HostInput) (s : State) : (setPort p s).cnt = s.cnt := rfl
@[simp] theorem setPort_hbad (p : List HostInput) (s : State) : (setPort p s).hbad = s.hbad := rfl
@[simp] theorem setPort_dir (p : List HostInput) (s : State) : (setPort p s).dir = s.dir := rfl
@[simp] theorem setPort_len (p : List HostInput) (s : State) : (setPort p s).len = s.len := rfl
@[simp] theorem setPort_code (p : List HostInput) (s : State) : (setPort p s).code = s.code := rfl
@[simp] theorem setPort_pay (p : List HostInput) (s : State) : (setPort p s).pay = s.pay := rfl
@[simp] theorem setPort_xacc (p : List HostInput) (s : State) : (setPort p s).xacc = s.xacc := rfl
@[simp] theorem setPort_csb (p : List HostInput) (s : State) : (setPort p s).csb = s.csb := rfl
@[simp] theorem setPort_cseen (p : List HostInput) (s : State) : (setPort p s).cseen = s.cseen := rfl
@[simp] theorem setPort_trail (p : List HostInput) (s : State) : (setPort p s).trail = s.trail := rfl
@[simp] theorem setPort_done (p : List HostInput) (s : State) : (setPort p s).done = s.done := rfl
@[simp] theorem setPort_valid (p : List HostInput) (s : State) : (setPort p s).valid = s.valid := rfl
@[simp] theorem setPort_reason (p : List HostInput) (s : State) : (setPort p s).reason = s.reason := rfl
@[simp] theorem setPort_csok (p : List HostInput) (s : State) : (setPort p s).csok = s.csok := rfl
@[simp] theorem setPort_ferr (p : List HostInput) (s : State) : (setPort p s).ferr = s.ferr := rfl
@[simp] theorem setPort_hit (p : List HostInput) (s : State) : (setPort p s).hit = s.hit := rfl
@[simp] theorem setPort_resv (p : List HostInput) (s : State) : (setPort p s).resv = s.resv := rfl
@[simp] theorem setPort_res (p : List HostInput) (s : State) : (setPort p s).res = s.res := rfl
@[simp] theorem setPort_opb (p : List HostInput) (s : State) : (setPort p s).opb = s.opb := rfl
@[simp] theorem setPort_err (p : List HostInput) (s : State) : (setPort p s).err = s.err := rfl
@[simp] theorem setPort_port (p : List HostInput) (s : State) : (setPort p s).port = p := rfl

@[simp] theorem setPort_setPort (p q : List HostInput) (s : State) : setPort p (setPort q s) = setPort p s := rfl

@[simp] theorem setPort_self (s : State) : setPort s.port s = s := rfl

end Sys2Proof.Machine
end

