-- ==== Sys2Proof/Laws/Memory.lean ====
section
/-! SUPPORT. The payload buffer: read after write, and every operation keeps the canonical form. -/

namespace Sys2Proof.Machine

@[simp] theorem Memory.read?_nil (k : Nat) : Memory.read? [] k = none := rfl

/-- Reading after writing one byte: the written offset reads the byte, every other offset reads as before. -/
theorem Memory.read?_set (m : Memory) (k j : Nat) (b : Byte) :
    Memory.read? (Memory.set m k b) j = if j = k then some b else Memory.read? m j := by
  induction m with
  | nil => by_cases h : k = j <;> simp [Memory.set, Memory.read?, h, eq_comm]
  | cons c m ih =>
    obtain ⟨a, x⟩ := c
    simp only [Memory.set]
    split_ifs <;> simp only [Memory.read?, ih] <;> split_ifs <;> first | rfl | omega

@[simp] theorem Memory.read?_set_same (m : Memory) (k : Nat) (b : Byte) :
    Memory.read? (Memory.set m k b) k = some b := by simp [Memory.read?_set]

@[simp] theorem Memory.setList_single (m : Memory) (k : Nat) (b : Byte) :
    Memory.setList m k [b] = Memory.set m k b := rfl

/-- Reading after writing a list: inside the written range its byte, outside as before. -/
theorem Memory.read?_setList (bs : List Byte) (m : Memory) (k j : Nat) :
    Memory.read? (Memory.setList m k bs) j =
      if k ≤ j ∧ j < k + bs.length then bs[j - k]? else Memory.read? m j := by
  induction bs generalizing m k with
  | nil => simp [Memory.setList]
  | cons b bs ih =>
    rw [Memory.setList, ih, Memory.read?_set]
    by_cases hj : j = k
    · subst hj; simp
    · by_cases hk : k + 1 ≤ j ∧ j < k + 1 + bs.length
      · have : j - k = (j - (k + 1)) + 1 := by omega
        rw [if_pos hk, if_pos (by simp only [List.length_cons]; omega), this, List.getElem?_cons_succ]
      · rw [if_neg hk, if_neg hj, if_neg (by simp only [List.length_cons]; omega)]

/-- In canonical form from `lo` on, nothing is listed below `lo` or from 255 on. -/
theorem Memory.wfFrom_read? (m : Memory) (lo k : Nat) (h : Memory.wfFrom lo m = true)
    (hk : (Memory.read? m k).isSome = true) : lo ≤ k ∧ k < Config.pmax := by
  induction m generalizing lo with
  | nil => simp at hk
  | cons c m ih =>
    obtain ⟨a, x⟩ := c
    simp only [Memory.wfFrom, Bool.and_eq_true, decide_eq_true_eq] at h
    by_cases ha : a = k
    · omega
    · have := ih (a + 1) h.2 (by simpa [Memory.read?, ha] using hk)
      omega

/-- Writing inside the buffer keeps the canonical form. -/
theorem Memory.wfFrom_set (m : Memory) (lo k : Nat) (b : Byte) (h : Memory.wfFrom lo m = true) (hlo : lo ≤ k)
    (hk : k < Config.pmax) : Memory.wfFrom lo (Memory.set m k b) = true := by
  induction m generalizing lo with
  | nil => simp [Memory.set, Memory.wfFrom, hlo, hk]
  | cons c m ih =>
    obtain ⟨a, x⟩ := c
    simp only [Memory.wfFrom, Bool.and_eq_true, decide_eq_true_eq] at h
    simp only [Memory.set]
    split_ifs with h1 h2
    · simp only [Memory.wfFrom, Bool.and_eq_true, decide_eq_true_eq]; exact ⟨⟨hlo, hk⟩, ⟨h1, h.1.2⟩, h.2⟩
    · subst h2; simp only [Memory.wfFrom, Bool.and_eq_true, decide_eq_true_eq]; exact h
    · simp only [Memory.wfFrom, Bool.and_eq_true, decide_eq_true_eq]
      exact ⟨h.1, ih (a + 1) h.2 (by omega)⟩

theorem Memory.wf_set (m : Memory) (k : Nat) (b : Byte) (h : Memory.wf m = true) (hk : k < Config.pmax) :
    Memory.wf (Memory.set m k b) = true := Memory.wfFrom_set m 0 k b h (Nat.zero_le k) hk

theorem Memory.wf_setList (bs : List Byte) (m : Memory) (k : Nat) (h : Memory.wf m = true)
    (hk : k + bs.length ≤ Config.pmax) : Memory.wf (Memory.setList m k bs) = true := by
  induction bs generalizing m k with
  | nil => exact h
  | cons b bs ih =>
    simp only [List.length_cons] at hk
    exact ih _ (k + 1) (Memory.wf_set m k b h (by omega)) (by omega)

/-- Equal contents are equal data: two buffers in canonical form that read alike are the same list. -/
theorem Memory.wfFrom_ext (m n : Memory) (lo : Nat) (hm : Memory.wfFrom lo m = true) (hn : Memory.wfFrom lo n = true)
    (h : ∀ k, Memory.read? m k = Memory.read? n k) : m = n := by
  have above : ∀ (r : Memory) (a k : Nat), Memory.wfFrom (a + 1) r = true → k ≤ a → Memory.read? r k = none := by
    intro r a k hr hk
    by_contra hne
    have := Memory.wfFrom_read? r (a + 1) k hr (Option.isSome_iff_ne_none.mpr hne)
    omega
  induction m generalizing n lo with
  | nil =>
    cases n with
    | nil => rfl
    | cons d n => obtain ⟨a, x⟩ := d; have := h a; simp [Memory.read?] at this
  | cons c m ih =>
    obtain ⟨a, x⟩ := c
    cases n with
    | nil => have := h a; simp [Memory.read?] at this
    | cons d n =>
      obtain ⟨a', x'⟩ := d
      simp only [Memory.wfFrom, Bool.and_eq_true, decide_eq_true_eq] at hm hn
      have haa : a = a' := by
        rcases Nat.lt_trichotomy a a' with hlt | heq | hgt
        · have := h a
          simp [Memory.read?, show a' ≠ a by omega, above n a' a hn.2 (by omega)] at this
        · exact heq
        · have := h a'
          simp [Memory.read?, show a ≠ a' by omega, above m a a' hm.2 (by omega)] at this
      subst haa
      have hx : x = x' := by have := h a; simpa [Memory.read?] using this
      subst hx
      refine congrArg _ (ih n (a + 1) hm.2 hn.2 fun k => ?_)
      by_cases hk : a = k
      · subst hk; rw [above m a a hm.2 le_rfl, above n a a hn.2 le_rfl]
      · have := h k; simpa [Memory.read?, hk] using this

theorem Memory.wf_ext (m n : Memory) (hm : Memory.wf m = true) (hn : Memory.wf n = true)
    (h : ∀ k, Memory.read? m k = Memory.read? n k) : m = n := Memory.wfFrom_ext m n 0 hm hn h

theorem reset_pay_wf : Memory.wf State.reset.pay = true := rfl

/-- All that `memRead` can do: the bytes in order when the range lies in the buffer, else the fault. -/
theorem memRead_cases (k n : Nat) (s : State) :
    (k + n ≤ 255 ∧ memRead k n s = .ok ((List.range n).map fun j => payByte s (k + j))) ∨
      (255 < k + n ∧ memRead k n s = .error (.payloadAddress k n)) := by
  rcases Nat.lt_or_ge 255 (k + n) with h | h
  · exact .inr ⟨h, by simp [memRead, Config.pmax, Nat.not_le.mpr h]⟩
  · exact .inl ⟨h, by simp [memRead, Config.pmax, h]⟩

/-- A write of one byte inside the buffer. -/
theorem memWrite_single (k : Nat) (b : Byte) (s : State) (h : k < 255) :
    memWrite k [b] s = .ok { s with pay := Memory.set s.pay k b } := by
  have : k + 1 ≤ Config.pmax := h
  simp [memWrite, this]

end Sys2Proof.Machine
end

