-- ==== Sys2Proof/Laws/Ops.lean ====
section
/-! SUPPORT. One lemma per shared operation that says once what it does. -/

namespace Sys2Proof.Machine

@[simp] theorem andThen_next (s : State) (f : State → Result) : andThen (.next s) f = f s := rfl

theorem andThen_eq_next (o : Result) (f : State → Result) (t : State) :
    andThen o f = .next t ↔ ∃ s, o = .next s ∧ f s = .next t := by
  cases o <;> simp [andThen]

theorem andThen_assoc (o : Result) (f g : State → Result) :
    andThen (andThen o f) g = andThen o fun s => andThen (f s) g := by
  cases o <;> rfl

/-- Where each byte of a window goes (R58). -/
theorem framePosition_cases (i len : Nat) :
    (i = 0 ∧ framePosition i len = .header0) ∨ (i = 1 ∧ framePosition i len = .header1) ∨
    (i = 2 ∧ framePosition i len = .direction) ∨ (i = 3 ∧ framePosition i len = .length) ∨
    (i = 4 ∧ framePosition i len = .code) ∨
    (5 ≤ i ∧ i < len + 5 ∧ framePosition i len = .payload (i - 5)) ∨
    (5 ≤ i ∧ i = len + 5 ∧ framePosition i len = .checksum) ∨
    (len + 5 < i ∧ framePosition i len = .trailing) := by
  unfold framePosition
  split_ifs <;> simp <;> omega

/-- The payload offset a PUSH stores to lies in the buffer. -/
theorem framePosition_payload_lt (i : Nat) (len : Byte) (k : Nat)
    (h : framePosition i len.toNat = .payload k) : k < 255 := by
  have hl := len.isLt
  rcases framePosition_cases i len.toNat with ⟨_, e⟩ | ⟨_, e⟩ | ⟨_, e⟩ | ⟨_, e⟩ | ⟨_, e⟩ | ⟨_, _, e⟩ | ⟨_, _, e⟩ | ⟨_, e⟩ <;>
    rw [h] at e <;> cases e
  omega

/-- The state a PUSH leaves, its one branch chosen by the frame position (R122). -/
def pushed (b : Byte) (s : State) : State :=
  match framePosition s.cnt.toNat s.len.toNat with
  | .header0 => { advance s with hbad := decide (b ≠ Config.dollar) }
  | .header1 => { advance s with hbad := s.hbad || decide (b ≠ Config.letterM) }
  | .direction =>
    { advance s with
      dir := decide (b = Config.responseChar)
      hbad := s.hbad || (decide (b ≠ Config.requestChar) && decide (b ≠ Config.responseChar)) }
  | .length => { advance s with len := b, xacc := b }
  | .code => { advance s with code := b, xacc := s.xacc ^^^ b }
  | .payload k => { advance s with pay := Memory.set s.pay k b, xacc := s.xacc ^^^ b }
  | .checksum => { advance s with csb := b, cseen := true }
  | .trailing => { s with trail := true }

/-- A PUSH in an open window always performs: the fault of the payload write never arises. -/
theorem pushByte_eq (b : Byte) (s : State) : pushByte b s = .next (pushed b s) := by
  unfold pushByte pushed
  cases h : framePosition s.cnt.toNat s.len.toNat <;> dsimp only
  rw [memWrite_single _ _ _ (framePosition_payload_lt _ _ _ h)]
  rfl

@[simp] theorem pushed_winOpen (b : Byte) (s : State) : (pushed b s).winOpen = s.winOpen := by
  unfold pushed; split <;> rfl

@[simp] theorem pushed_strict (b : Byte) (s : State) : (pushed b s).strict = s.strict := by
  unfold pushed; split <;> rfl

@[simp] theorem pushed_done (b : Byte) (s : State) : (pushed b s).done = s.done := by
  unfold pushed; split <;> rfl

@[simp] theorem pushed_valid (b : Byte) (s : State) : (pushed b s).valid = s.valid := by
  unfold pushed; split <;> rfl

@[simp] theorem pushed_reason (b : Byte) (s : State) : (pushed b s).reason = s.reason := by
  unfold pushed; split <;> rfl

@[simp] theorem pushed_csok (b : Byte) (s : State) : (pushed b s).csok = s.csok := by
  unfold pushed; split <;> rfl

@[simp] theorem pushed_ferr (b : Byte) (s : State) : (pushed b s).ferr = s.ferr := by
  unfold pushed; split <;> rfl

@[simp] theorem pushed_hit (b : Byte) (s : State) : (pushed b s).hit = s.hit := by
  unfold pushed; split <;> rfl

@[simp] theorem pushed_resv (b : Byte) (s : State) : (pushed b s).resv = s.resv := by
  unfold pushed; split <;> rfl

@[simp] theorem pushed_res (b : Byte) (s : State) : (pushed b s).res = s.res := by
  unfold pushed; split <;> rfl

@[simp] theorem pushed_opb (b : Byte) (s : State) : (pushed b s).opb = s.opb := by
  unfold pushed; split <;> rfl

@[simp] theorem pushed_err (b : Byte) (s : State) : (pushed b s).err = s.err := by
  unfold pushed; split <;> rfl

@[simp] theorem pushed_port (b : Byte) (s : State) : (pushed b s).port = s.port := by
  unfold pushed; split <;> rfl

/-- PUSH always performs: in phase OPEN its branch, else the refusal (R122). -/
theorem execPush_eq (b : Byte) (s : State) :
    execPush b s = .next (if s.winOpen then pushed b s else refuse s) := by
  unfold execPush
  split <;> simp [pushByte_eq]

/-- The pushes of a window already open, one after the other. -/
theorem pushAll_eq (bs : List Byte) (s : State) (h : s.winOpen = true) :
    pushAll bs s = .next (bs.foldl (fun t b => pushed b t) s) := by
  induction bs generalizing s with
  | nil => rfl
  | cons b bs ih => simp [pushAll, execPush_eq, h, ih]

theorem foldl_pushed_winOpen (bs : List Byte) (s : State) :
    (bs.foldl (fun t b => pushed b t) s).winOpen = s.winOpen := by
  induction bs generalizing s with
  | nil => rfl
  | cons b bs ih => simp [ih]

/-- `FEED` always performs: a clean window, the pushes, the verdict (R86, R124). -/
theorem feed_eq (raw : List Byte) (s : State) :
    feed raw s = .next (latchVerdict (raw.foldl (fun t b => pushed b t) (openWindow s))) := by
  have h : (openWindow s).winOpen = true := rfl
  simp [feed, execSor, pushAll_eq _ _ h, execEor, foldl_pushed_winOpen]

/-- All that `latchVerdict` writes (R123). -/
theorem latchVerdict_eq (s : State) :
    latchVerdict s = { closeWindow s with valid := decide (verdict s = .none), reason := verdict s } := by
  unfold latchVerdict
  split <;> rename_i h <;> simp [h, acceptFrame, raiseUnavailable]

/-- The bytes a decode of a field that fits reads (R150). -/
theorem memRead_field (off : Byte) (n : Nat) (s : State) (h : off.toNat + n ≤ s.len.toNat) :
    memRead off.toNat n s = .ok ((List.range n).map fun j => payByte s (off.toNat + j)) := by
  have hl := s.len.isLt
  have : off.toNat + n ≤ Config.pmax := by simp only [Config.pmax]; omega
  simp [memRead, this]

/-- DEC always performs (R150): refused, unavailable, malformed, or the field delivered. -/
theorem execDec_eq (w : Width) (off : Byte) (s : State) :
    execDec w off s = .next (
      if s.done = false then refuse s
      else if s.valid = false then noUpdate s
      else if s.ferr = true ∨ s.len.toNat < off.toNat + w.bytes then raiseMalformed s
      else deliver (sext32 (decodeSigned ((List.range w.bytes).map fun j => payByte s (off.toNat + j)))) s) := by
  unfold execDec decodeField
  cases s.done <;> cases s.valid <;> simp
  split
  · rfl
  · rename_i h
    rw [memRead_field _ _ _ (by omega)]

/-- RDB always performs (R151). -/
theorem execRdb_eq (off : Byte) (s : State) :
    execRdb off s = .next (
      if s.done = false then refuse s
      else if s.valid = true ∧ off.toNat < s.len.toNat then deliver (zext32 (payByte s off.toNat)) s
      else noUpdate s) := by
  unfold execRdb readRaw
  cases s.done <;> simp
  split
  · rename_i h
    rw [memRead_field _ _ _ (by omega)]
    simp
  · rfl

/-- The input at the head of the port: its instruction, or what the block does with an input that is none. -/
theorem step_cons (s : State) (input : HostInput) (rest : List HostInput) (h : s.port = input :: rest) :
    step s = match decode input with
      | .ok i => exec i (setPort rest s)
      | .error _ => performUndecoded input (setPort rest s) := by
  cases hd : decode input <;> simp [step, h, hd]

/-- Nothing on the port: nothing happens. -/
theorem step_idle (s : State) (h : s.port = []) : step s = .next s := by simp [step, h]

end Sys2Proof.Machine
end

