-- ==== Sys2Proof/Laws/PerInstr.lean ====
section
/-! SUPPORT. The families of statements made instruction by instruction (LAWS.json), one lemma per constructor. -/

namespace Sys2Proof.Laws

/-- A bit of a frame's 40-bit head. -/
theorem head_bit (b0 b1 b2 b3 b4 : Byte) (i : Nat) (hi : i < 40) :
    (frameHead b0 b1 b2 b3 b4).getLsbD i =
      decide ((4294967296 * b0.toNat + 16777216 * b1.toNat + 65536 * b2.toNat + 256 * b3.toNat + b4.toNat) /
        2 ^ i % 2 = 1) := by
  simp only [frameHead, BitVec.getLsbD_ofNat, hi, decide_true, Bool.true_and, Nat.testBit_eq_decide_div_mod_eq]

/-- The mask of a named row takes the length byte out of the head. -/
theorem head_mask_len (b0 b1 b2 len code : Byte) :
    frameHead b0 b1 b2 len code &&& 0xFFFFFF00FF = frameHead b0 b1 b2 0 code := by
  apply BitVec.eq_of_getLsbD_eq
  intro i hi
  rw [BitVec.getLsbD_and, head_bit _ _ _ _ _ i hi, head_bit _ _ _ _ _ i hi]
  interval_cases i <;> simp <;> omega

/-- The mask of a catch-all row takes the length and the code byte out of the head. -/
theorem head_mask_len_code (b0 b1 b2 len code : Byte) :
    frameHead b0 b1 b2 len code &&& 0xFFFFFF0000 = frameHead b0 b1 b2 0 0 := by
  apply BitVec.eq_of_getLsbD_eq
  intro i hi
  rw [BitVec.getLsbD_and, head_bit _ _ _ _ _ i hi, head_bit _ _ _ _ _ i hi]
  interval_cases i <;> simp <;> omega

/-- The code byte is the lowest byte of the head. -/
theorem head_code (b0 b1 b2 len code : Byte) : (frameHead b0 b1 b2 len code).extractLsb 7 0 = code := by
  apply BitVec.eq_of_toNat_eq
  simp [frameHead]
  omega

/-- The rows a read selects depend on its first three bytes and its code byte alone. -/
theorem rowsOf_read_len (b0 b1 b2 len code : Byte) (body : List Byte) :
    rowsOf (.read (b0 :: b1 :: b2 :: len :: code :: body)) = rowsOf (.read [b0, b1, b2, 0, code]) := by
  simp only [rowsOf, FrameRow.selects, frameRows, List.cons_append, List.nil_append, List.filter_cons, List.filter_nil,
    head_mask_len, head_mask_len_code, head_code]

/-- The rows a response frame's head selects: the named row of its code, else the catch-all row (R87). -/
theorem rowsOf_response (code : Byte) :
    rowsOf (.read [0x24, 0x4D, 0x3E, 0, code]) = [(responseRow 0 code [] 0).mnemonic] := by
  revert code
  decide

/-- The rows a request frame's head selects (R87). -/
theorem rowsOf_request (code : Byte) :
    rowsOf (.read [0x24, 0x4D, 0x3C, 0, code]) = [(requestRow 0 code [] 0).mnemonic] := by
  revert code
  decide

/-- The fields of an assembled word. -/
theorem opField_cmdWord (op w : BitVec 4) (imm : Byte) : opField (cmdWord op w imm) = op := by
  apply BitVec.eq_of_toNat_eq
  simp [opField, cmdWord, Nat.shiftRight_eq_div_pow]
  omega

theorem wField_cmdWord (op w : BitVec 4) (imm : Byte) : wField (cmdWord op w imm) = w := by
  apply BitVec.eq_of_toNat_eq
  simp [wField, cmdWord, Nat.shiftRight_eq_div_pow]
  omega

theorem immField_cmdWord (op w : BitVec 4) (imm : Byte) : immField (cmdWord op w imm) = imm := by
  apply BitVec.eq_of_toNat_eq
  simp [immField, cmdWord]
  omega

/-- A word is its three fields. -/
theorem cmdWord_fields (c : CmdWord) : cmdWord (opField c) (wField c) (immField c) = c := by
  apply BitVec.eq_of_toNat_eq
  simp [immField, wField, opField, cmdWord, Nat.shiftRight_eq_div_pow]
  omega

/-- Every encoding of a well-formed instruction selects one row of spec/opcode_table.json, the instruction's own. -/
def RowSelected.Statement (i : Instr) : Prop := i.wellFormed = true → rowsOf (encode i) = [i.mnemonic]

theorem RowSelected.nop : RowSelected.Statement .nop := by intro _; decide

theorem RowSelected.sor : RowSelected.Statement .sor := by intro _; decide

theorem RowSelected.push (b : Byte) : RowSelected.Statement (.push b) := by intro _; revert b; decide

theorem RowSelected.eor : RowSelected.Statement .eor := by intro _; decide

theorem RowSelected.dec (w : Width) (off : Byte) : RowSelected.Statement (.dec w off) := by
  intro _; revert off; cases w <;> decide

theorem RowSelected.rdb (off : Byte) : RowSelected.Statement (.rdb off) := by intro _; revert off; decide

theorem RowSelected.ldo (i : Fin 4) (b : Byte) : RowSelected.Statement (.ldo i b) := by
  intro _; revert b; fin_cases i <;> decide

theorem RowSelected.deco (w : Width) : RowSelected.Statement (.deco w) := by intro _; cases w <;> decide

theorem RowSelected.wrc (strict : Bool) : RowSelected.Statement (.wrc strict) := by intro _; cases strict <;> decide

theorem RowSelected.rst : RowSelected.Statement .rst := by intro _; decide

/-- A code outside the six falls to the catch-all response row. -/
theorem responseRow_other (len code : Byte) (payload : List Byte) (csum : Byte) (h : isOtherCode code = true) :
    responseRow len code payload csum = .respOther len code payload csum := by
  simp [isOtherCode, Config.namedCodes] at h
  simp [responseRow, h]

/-- A code outside the six falls to the catch-all request row. -/
theorem requestRow_other (len code : Byte) (payload : List Byte) (csum : Byte) (h : isOtherCode code = true) :
    requestRow len code payload csum = .reqOther len code payload csum := by
  simp [isOtherCode, Config.namedCodes] at h
  simp [requestRow, h]

theorem RowSelected.respRawImu (len : Byte) (payload : List Byte) (csum : Byte) :
    RowSelected.Statement (.respRawImu len payload csum) := fun _ =>
  (rowsOf_read_len _ _ _ _ _ _).trans (rowsOf_response _)

theorem RowSelected.respMotor (len : Byte) (payload : List Byte) (csum : Byte) :
    RowSelected.Statement (.respMotor len payload csum) := fun _ =>
  (rowsOf_read_len _ _ _ _ _ _).trans (rowsOf_response _)

theorem RowSelected.respRc (len : Byte) (payload : List Byte) (csum : Byte) :
    RowSelected.Statement (.respRc len payload csum) := fun _ =>
  (rowsOf_read_len _ _ _ _ _ _).trans (rowsOf_response _)

theorem RowSelected.respAttitude (len : Byte) (payload : List Byte) (csum : Byte) :
    RowSelected.Statement (.respAttitude len payload csum) := fun _ =>
  (rowsOf_read_len _ _ _ _ _ _).trans (rowsOf_response _)

theorem RowSelected.respAltitude (len : Byte) (payload : List Byte) (csum : Byte) :
    RowSelected.Statement (.respAltitude len payload csum) := fun _ =>
  (rowsOf_read_len _ _ _ _ _ _).trans (rowsOf_response _)

theorem RowSelected.respSetRawRc (len : Byte) (payload : List Byte) (csum : Byte) :
    RowSelected.Statement (.respSetRawRc len payload csum) := fun _ =>
  (rowsOf_read_len _ _ _ _ _ _).trans (rowsOf_response _)

theorem RowSelected.respOther (len code : Byte) (payload : List Byte) (csum : Byte) :
    RowSelected.Statement (.respOther len code payload csum) := by
  intro h
  simp only [Instr.wellFormed, Bool.and_eq_true] at h
  exact (rowsOf_read_len _ _ _ _ _ _).trans ((rowsOf_response code).trans (by rw [responseRow_other _ _ _ _ h.1]; rfl))

theorem RowSelected.reqRawImu (len : Byte) (payload : List Byte) (csum : Byte) :
    RowSelected.Statement (.reqRawImu len payload csum) := fun _ =>
  (rowsOf_read_len _ _ _ _ _ _).trans (rowsOf_request _)

theorem RowSelected.reqMotor (len : Byte) (payload : List Byte) (csum : Byte) :
    RowSelected.Statement (.reqMotor len payload csum) := fun _ =>
  (rowsOf_read_len _ _ _ _ _ _).trans (rowsOf_request _)

theorem RowSelected.reqRc (len : Byte) (payload : List Byte) (csum : Byte) :
    RowSelected.Statement (.reqRc len payload csum) := fun _ =>
  (rowsOf_read_len _ _ _ _ _ _).trans (rowsOf_request _)

theorem RowSelected.reqAttitude (len : Byte) (payload : List Byte) (csum : Byte) :
    RowSelected.Statement (.reqAttitude len payload csum) := fun _ =>
  (rowsOf_read_len _ _ _ _ _ _).trans (rowsOf_request _)

theorem RowSelected.reqAltitude (len : Byte) (payload : List Byte) (csum : Byte) :
    RowSelected.Statement (.reqAltitude len payload csum) := fun _ =>
  (rowsOf_read_len _ _ _ _ _ _).trans (rowsOf_request _)

theorem RowSelected.cmdSetRawRc (len : Byte) (payload : List Byte) (csum : Byte) :
    RowSelected.Statement (.cmdSetRawRc len payload csum) := fun _ =>
  (rowsOf_read_len _ _ _ _ _ _).trans (rowsOf_request _)

theorem RowSelected.reqOther (len code : Byte) (payload : List Byte) (csum : Byte) :
    RowSelected.Statement (.reqOther len code payload csum) := by
  intro h
  simp only [Instr.wellFormed, Bool.and_eq_true] at h
  exact (rowsOf_read_len _ _ _ _ _ _).trans ((rowsOf_request code).trans (by rw [requestRow_other _ _ _ _ h.1]; rfl))

end Sys2Proof.Laws
end

