-- ==== Sys2Proof/Machine/Assembler.lean ====
section
/-! DEFINITION. The assembler's lines (R85) and the pseudo-operations' (R86), over lists of characters. Where R85 is
silent (blanks between tokens, `FEED`'s and `DECI`'s operands apart by blanks as R86 writes them) see log 11. -/

namespace Sys2Proof.Machine

/-- A space or a tab. -/
def isBlank (c : Char) : Bool := c == ' ' || c == '\t'

/-- Cut a line at each character that `p` picks. -/
def splitWhere (p : Char → Bool) : List Char → List (List Char)
  | [] => [[]]
  | c :: cs =>
    if p c then [] :: splitWhere p cs
    else
      match splitWhere p cs with
      | [] => [[c]]
      | w :: ws => (c :: w) :: ws

/-- The tokens of a line that stand between blanks. -/
def blankTokens (l : List Char) : List (List Char) := (splitWhere isBlank l).filter (!·.isEmpty)

/-- The value of a digit in a base up to 16. -/
def digitValue (base : Nat) (c : Char) : Option Nat :=
  let n := c.toNat
  let d := if 48 ≤ n ∧ n ≤ 57 then some (n - 48)
    else if 65 ≤ n ∧ n ≤ 70 then some (n - 55)
    else if 97 ≤ n ∧ n ≤ 102 then some (n - 87)
    else none
  d.filter (· < base)

/-- The value of a run of digits, with what stands before it in `acc`. -/
def digitsValue (base acc : Nat) : List Char → Option Nat
  | [] => some acc
  | c :: cs => (digitValue base c).bind fun d => digitsValue base (base * acc + d) cs

/-- A number, decimal or `0x` hexadecimal (R85). -/
def number : List Char → Option Nat
  | [] => none
  | '0' :: 'x' :: c :: cs => digitsValue 16 0 (c :: cs)
  | c :: cs => digitsValue 10 0 (c :: cs)

/-- Numbers between commas (R85): each exactly one token. -/
def commaNumbers (l : List Char) : Option (List Nat) :=
  if (blankTokens l).isEmpty then some []
  else (splitWhere (· == ',') l).mapM fun part =>
    match blankTokens part with
    | [t] => number t
    | _ => none

/-- A byte operand, 0 to 255. -/
def byteOperand (n : Nat) : Option Byte := if n < 256 then some (BitVec.ofNat 8 n) else none

/-- The byte operands of `FEED` and `DECI`, between blanks (R86). -/
def byteTokens (l : List Char) : Option (List Byte) :=
  (blankTokens l).mapM fun t => (number t).bind byteOperand

/-- A pseudo-operation's mnemonic and operands (R86). -/
def assemblePseudo (m rest : List Char) : Option (List Instr) :=
  match m, commaNumbers rest with
  | ['D', 'E', 'C', '1', '6'], some [off] => (byteOperand off).bind fun b => (Pseudo.dec16 b).expand
  | ['D', 'E', 'C', '3', '2'], some [off] => (byteOperand off).bind fun b => (Pseudo.dec32 b).expand
  | ['D', 'E', 'C', '8'], some [off] => (byteOperand off).bind fun b => (Pseudo.dec8 b).expand
  | ['S', 'T', 'R', 'I', 'C', 'T'], some [] => Pseudo.strict.expand
  | ['L', 'A', 'X'], some [] => Pseudo.lax.expand
  | ['F', 'E', 'E', 'D'], _ => (byteTokens rest).bind fun bs => (Pseudo.feed bs).expand
  | ['D', 'E', 'C', 'I'], _ => (byteTokens rest).bind fun bs => (Pseudo.deci bs).expand
  | _, _ => none

/-- An operation's mnemonic and operands (R85). -/
def assembleOp (m : List Char) (ops : List Nat) : Option Instr :=
  match m, ops with
  | ['N', 'O', 'P'], [] => some .nop
  | ['S', 'O', 'R'], [] => some .sor
  | ['P', 'U', 'S', 'H'], [b] => (byteOperand b).map .push
  | ['E', 'O', 'R'], [] => some .eor
  | ['D', 'E', 'C'], [w, off] => (widthOfLength w).bind fun k => (byteOperand off).map (.dec k)
  | ['R', 'D', 'B'], [off] => (byteOperand off).map .rdb
  | ['L', 'D', 'O'], [i, b] => if i < 4 then (byteOperand b).map (.ldo (Fin.ofNat 4 i)) else none
  | ['D', 'E', 'C', 'O'], [w] => (widthOfLength w).map .deco
  | ['W', 'R', 'C'], [0] => some (.wrc false)
  | ['W', 'R', 'C'], [1] => some (.wrc true)
  | ['R', 'S', 'T'], [] => some .rst
  | _, _ => none

/-- One line: a comment starts at `;`, an empty line is no operation, and the mnemonic is the first token (R85). -/
def assembleLine (line : List Char) : Option (List Instr) :=
  let code := (line.takeWhile (· != ';')).dropWhile isBlank
  let m := code.takeWhile (!isBlank ·)
  let rest := code.dropWhile (!isBlank ·)
  if m.isEmpty then some []
  else
    match (commaNumbers rest).bind (assembleOp m) with
    | some i => some [i]
    | none => assemblePseudo m rest

/-! ## How the spec writes a byte (R7, R85) -/

/-- The digit of a value below 16, letters in capitals. -/
def digitChar (n : Nat) : Char := Char.ofNat (if n < 10 then 48 + n else 55 + n)

/-- A byte in decimal, with no leading zero. -/
def decimalText (b : Byte) : List Char :=
  let n := b.toNat
  if n < 10 then [digitChar n]
  else if n < 100 then [digitChar (n / 10), digitChar (n % 10)]
  else [digitChar (n / 100), digitChar (n / 10 % 10), digitChar (n % 10)]

/-- A byte as `0x` and two hexadecimal digits. -/
def hexText (b : Byte) : List Char := ['0', 'x', digitChar (b.toNat / 16), digitChar (b.toNat % 16)]

end Sys2Proof.Machine
end

