-- ==== Sys2Proof/Certificates/Slice0/Obligations.lean ====
section
/-! DEFINITION. The statements for the provers: what the numbered rules of spec/ say the block does. -/

open Sys2Proof Sys2Proof.Machine

/-! ## Encodings -/

/-- Decode and encode agree: no bit of an encoding is dropped (R80, R85, R70). -/
def Obligations.DecodeOfEncodeIsTheInstruction : Prop :=
  ∀ i : Instr, i.wellFormed = true → decode (encode i) = .ok i

/-- Each input has one meaning: what decodes is the encoding of what it decodes to, which is well formed. -/
def Obligations.EncodeOfDecodeIsTheInput : Prop :=
  ∀ (input : HostInput) (i : Instr), decode input = .ok i → encode i = input ∧ i.wellFormed = true

/-- Every encoding selects exactly its own row of the opcode table (R80 "The rows are disjoint", R87). -/
def Obligations.EncodingSelectsOnlyItsOwnRow : Prop := ∀ i : Instr, Sys2Proof.Laws.RowSelected.Statement i

/-- The decoder of command words accepts a word exactly when the word selects a row of R80, and gives that row's
operation. -/
def Obligations.DecoderFollowsTheWordRows : Prop :=
  ∀ c : CmdWord, rowsOf (.word c) = match decodeWord c with
    | .ok i => [i.mnemonic]
    | .error _ => []

/-- R83: which words are illegal, field by field, and what the block does with one, taken from the model's port
(log 1); every other word is one of the ten operations. -/
def Obligations.IllegalWordOnlySetsErr : Prop :=
  ∀ (c : CmdWord) (s : State) (rest : List HostInput),
    let op := c.toNat / 4096
    let w := c.toNat / 256 % 16
    let imm := c.toNat % 256
    let illegal := (9 ≤ op ∧ op ≤ 14) ∨ ((op = 0 ∨ op = 1 ∨ op = 3 ∨ op = 15) ∧ (w ≠ 0 ∨ imm ≠ 0)) ∨
      ((op = 2 ∨ op = 5 ∨ op = 8) ∧ w ≠ 0) ∨ ((op = 4 ∨ op = 7) ∧ (w = 0 ∨ 5 ≤ w)) ∨ (op = 7 ∧ imm ≠ 0) ∨
      (op = 6 ∧ 4 ≤ w) ∨ (op = 8 ∧ imm / 2 ≠ 0)
    (illegal → step (setPort (.word c :: rest) s) = .next { setPort rest s with err := true }) ∧
    (¬illegal → ∃ i, decodeWord c = .ok i ∧ isFrameRow i = false ∧ step (setPort (.word c :: rest) s) = exec i (setPort rest s))

/-- Words and frames written out from R80, R85 and R70 decode to what they stand for. -/
def Obligations.WrittenWordsDecodeAsTheSpecSays : Prop :=
  decodeWord 0x0000 = .ok .nop ∧ decodeWord 0x1000 = .ok .sor ∧ decodeWord 0x2024 = .ok (.push 0x24) ∧
  decodeWord 0x3000 = .ok .eor ∧ decodeWord 0x4204 = .ok (.dec .w2 4) ∧ decodeWord 0x50FF = .ok (.rdb 255) ∧
  decodeWord 0x63FF = .ok (.ldo 3 0xFF) ∧ decodeWord 0x7400 = .ok (.deco .w4) ∧
  decodeWord 0x8001 = .ok (.wrc true) ∧ decodeWord 0xF000 = .ok .rst ∧
  decodeFrame [0x24, 0x4D, 0x3E, 0x02, 0x6C, 0x34, 0x12, 0x48] = .ok (.respAttitude 2 [0x34, 0x12] 0x48) ∧
  decodeFrame [0x24, 0x4D, 0x3C, 0x00, 0xC8, 0xC8] = .ok (.cmdSetRawRc 0 [] 0xC8)

/-- Each line form of R85 assembles to its operation, whose word is the table's, and each of R86 to its expansion; the
operands that R85 excludes assemble to nothing; and every line that assembles is operations that a command word encodes.
A byte is written in decimal or in `0x` hexadecimal, `comment` is empty or starts at `;`, and the blanks (`j` after the
comma, `k` before the comment, one before an operand) are the model's choice, log 11. -/
def Obligations.AssemblerLinesAreTheirOperations : Prop :=
  (∀ (write : Byte → List Char) (j k : Nat) (comment : List Char),
    (∀ b, write b = decimalText b ∨ write b = hexText b) → (comment = [] ∨ comment.head? = some ';') →
    let tail := List.replicate k ' ' ++ comment
    let one := fun (m : List Char) (x : Byte) => assembleLine (m ++ ' ' :: write x ++ tail)
    let two := fun (m : List Char) (x y : Byte) =>
      assembleLine (m ++ ' ' :: write x ++ ',' :: List.replicate j ' ' ++ write y ++ tail)
    let many := fun (m : List Char) (bs : List Byte) =>
      assembleLine (m ++ (bs.flatMap fun b => ' ' :: write b) ++ tail)
    let widthByte := fun w : Width => BitVec.ofNat 8 w.bytes
    assembleLine tail = some [] ∧
    (assembleLine (['N', 'O', 'P'] ++ tail) = some [.nop] ∧ encode .nop = .word 0x0000) ∧
    (assembleLine (['S', 'O', 'R'] ++ tail) = some [.sor] ∧ encode .sor = .word 0x1000) ∧
    (∀ b, one ['P', 'U', 'S', 'H'] b = some [.push b] ∧
      encode (.push b) = .word (BitVec.ofNat 16 (0x2000 + b.toNat))) ∧
    (assembleLine (['E', 'O', 'R'] ++ tail) = some [.eor] ∧ encode .eor = .word 0x3000) ∧
    (∀ w off, two ['D', 'E', 'C'] (widthByte w) off = some [.dec w off] ∧
      encode (.dec w off) = .word (BitVec.ofNat 16 (0x4000 + 256 * w.bytes + off.toNat))) ∧
    (∀ off, one ['R', 'D', 'B'] off = some [.rdb off] ∧
      encode (.rdb off) = .word (BitVec.ofNat 16 (0x5000 + off.toNat))) ∧
    (∀ (i : Fin 4) (b : Byte), two ['L', 'D', 'O'] (BitVec.ofNat 8 i.val) b = some [.ldo i b] ∧
      encode (.ldo i b) = .word (BitVec.ofNat 16 (0x6000 + 256 * i.val + b.toNat))) ∧
    (∀ w, one ['D', 'E', 'C', 'O'] (widthByte w) = some [.deco w] ∧
      encode (.deco w) = .word (BitVec.ofNat 16 (0x7000 + 256 * w.bytes))) ∧
    (∀ v : Bool, one ['W', 'R', 'C'] (BitVec.ofNat 8 v.toNat) = some [.wrc v] ∧
      encode (.wrc v) = .word (BitVec.ofNat 16 (0x8000 + v.toNat))) ∧
    (assembleLine (['R', 'S', 'T'] ++ tail) = some [.rst] ∧ encode .rst = .word 0xF000) ∧
    (∀ x b : Byte, (x = 0 ∨ 5 ≤ x.toNat) → two ['D', 'E', 'C'] x b = none ∧ one ['D', 'E', 'C', 'O'] x = none) ∧
    (∀ x b : Byte, 4 ≤ x.toNat → two ['L', 'D', 'O'] x b = none) ∧
    (∀ x : Byte, 2 ≤ x.toNat → one ['W', 'R', 'C'] x = none) ∧
    (∀ bs, many ['F', 'E', 'E', 'D'] bs = some (.sor :: (bs.map Instr.push ++ [.eor]))) ∧
    (∀ off, one ['D', 'E', 'C', '1', '6'] off = some [.dec .w2 off] ∧
      one ['D', 'E', 'C', '3', '2'] off = some [.dec .w4 off] ∧ one ['D', 'E', 'C', '8'] off = some [.dec .w1 off]) ∧
    (∀ (bs : List Byte) (w : Width), bs.length = w.bytes →
      many ['D', 'E', 'C', 'I'] bs = some ((bs.mapIdx fun i b => Instr.ldo (Fin.ofNat 4 i) b) ++ [.deco w])) ∧
    assembleLine (['S', 'T', 'R', 'I', 'C', 'T'] ++ tail) = some [.wrc true] ∧
    assembleLine (['L', 'A', 'X'] ++ tail) = some [.wrc false]) ∧
  ∀ (line : List Char) (ops : List Instr), assembleLine line = some ops →
    ∀ i ∈ ops, ∃ c, encode i = .word c ∧ decodeWord c = .ok i

/-! ## The step -/

/-- A step runs the decoded instruction, on the state less the input it takes from the port (the model's interface,
log 1). -/
def Obligations.StepRunsTheDecodedInstruction : Prop :=
  ∀ (s : State) (input : HostInput) (rest : List HostInput) (i : Instr),
    s.port = input :: rest → decode input = .ok i → step s = exec i (setPort rest s)

/-- With nothing on the port a step changes nothing (R165, R216; log 4). -/
def Obligations.IdleStepChangesNothing : Prop :=
  ∀ s : State, s.port = [] → step s = .next s

/-- Any read on the port, a frame or not, is `FEED` of its bytes (R86, R124; log 2). -/
def Obligations.ReadOnThePortIsFeed : Prop :=
  ∀ (s : State) (raw : List Byte) (rest : List HostInput),
    step (setPort (.read raw :: rest) s) = feed raw (setPort rest s)

/-- The one step of a read is the same as its expansion issued word by word: SOR, a PUSH a byte, EOR (R86, R120).
That a step takes its input from the port, and a whole read at once, is the model's interface (logs 1 and 2). -/
def Obligations.ReadStepEqualsItsWordByWordExpansion : Prop :=
  ∀ (s : State) (raw : List Byte) (rest : List HostInput),
    runSteps (raw.length + 2) (setPort ((feedOps raw).map encode ++ rest) s) =
      step (setPort (.read raw :: rest) s)

/-- No operation reads or writes what waits on the port (the model's field, log 1): "The command word of the operation
being performed is an input, not state" (R20). -/
def Obligations.OperationsNeverTouchThePort : Prop :=
  ∀ (i : Instr) (s t : State) (p : List HostInput), exec i s = .next t →
    t.port = s.port ∧ exec i (setPort p s) = .next (setPort p t)

/-- Every operation in every state has an outcome, and so has every step: nothing stops the block (R9, R197). -/
def Obligations.EveryOperationAndStepHasANextState : Prop :=
  (∀ (i : Instr) (s : State), ∃ t, exec i s = .next t) ∧ ∀ s : State, ∃ t, step s = .next t

/-- R169's table: in each of the three phases an operation performs and leads to the table's phase, or is refused with
`ERR <- 1` alone; an illegal encoding is refused in all three. The port is the model's (log 1), a frame
row a whole `FEED` (log 2). -/
def Obligations.PhaseTableIsFollowed : Prop :=
  (∀ (i : Instr) (s : State), ¬(s.winOpen = true ∧ s.done = true) →
    ∃ t, exec i s = .next t ∧
      match phaseTable i (phase s) with
      | some p => phase t = p ∧ ¬(t.winOpen = true ∧ t.done = true) ∧ (i ≠ .rst → t.err = s.err)
      | none => t = { s with err := true }) ∧
  ∀ (c : CmdWord) (e : DecodeError) (s : State) (rest : List HostInput), decodeWord c = .error e →
    step (setPort (.word c :: rest) s) = .next { setPort rest s with err := true }

/-! ## Control operations -/

/-- R165: NOP changes nothing, and NOPs anywhere in a sequence leave every result unchanged. -/
def Obligations.NopChangesNothingAnywhere : Prop :=
  (∀ c : CmdWord, decodeWord c = .ok .nop ↔ c.toNat = 0x0000) ∧
  (∀ s : State, exec .nop s = .next s) ∧
  ∀ (a b : List Instr) (n : Nat) (s : State), runAll (a ++ List.replicate n .nop ++ b) s = runAll (a ++ b) s

/-- R166: WRC writes `CFG.STRICT` and nothing else, the latched verdict included, when no window is open; else it is
refused. -/
def Obligations.WrcWritesStrictOutsideAWindow : Prop :=
  ∀ (v : Bool) (s : State),
    (∀ c : CmdWord, decodeWord c = .ok (.wrc v) ↔ c.toNat = 0x8000 + v.toNat) ∧
    (s.winOpen = false → exec (.wrc v) s = .next { s with strict := v }) ∧
    (s.winOpen = true → exec (.wrc v) s = .next { s with err := true })

/-- R167, R200: RST puts every piece of the block's state at its reset value from any state, so that all outputs are
zero, and is idempotent. What waits on the port is no state of the block (log 1); `PAY` goes back to the reset state's
unspecified bytes (log 3). -/
def Obligations.RstRestoresTheResetState : Prop :=
  (∀ c : CmdWord, decodeWord c = .ok .rst ↔ c.toNat = 0xF000) ∧
  ∀ s : State, ∃ t, exec .rst s = .next t ∧
    t = setPort s.port State.reset ∧ outputs t = ⟨0, 0, 0, 0⟩ ∧ phase t = .idle ∧ exec .rst t = .next t

/-- R47: the reset values, and the outputs after reset; the bytes of `PAY` are the free parameter (log 3). -/
def Obligations.ResetStateIsAllZero : Prop :=
  let s := State.reset
  s.strict = false ∧ s.winOpen = false ∧ s.done = false ∧ s.valid = false ∧ s.cseen = false ∧ s.csok = false ∧
  s.dir = false ∧ s.hbad = false ∧ s.trail = false ∧ s.ferr = false ∧ s.hit = false ∧ s.resv = false ∧
  s.err = false ∧ s.cnt = 0 ∧ s.len = 0 ∧ s.code = 0 ∧ s.xacc = 0 ∧ s.csb = 0 ∧ s.reason.code = 0 ∧ s.res = 0 ∧
  s.opb.toList = [0, 0, 0, 0] ∧ (∀ k, payByte s k = Config.payReset k) ∧
  status s = 0x00000000 ∧ cat s = 0 ∧ phase s = .idle

/-! ## The parser -/

/-- R121: SOR opens a clean window from every state and leaves everything else; SOR after SOR is one SOR. -/
def Obligations.SorOpensACleanWindow : Prop :=
  (∀ c : CmdWord, decodeWord c = .ok .sor ↔ c.toNat = 0x1000) ∧
  ∀ s : State, ∃ t, exec .sor s = .next t ∧
    t = { s with
          winOpen := true, done := false, cnt := 0, hbad := false, dir := false, len := 0, code := 0, xacc := 0
          csb := 0, cseen := false, trail := false, valid := false, reason := .none, csok := false
          ferr := false, hit := false } ∧
    exec .sor t = .next t

/-- R122: PUSH in phase OPEN, position by position, with the rest of the state unchanged; the payload byte goes to offset
`CNT - 5` and every other offset reads as before. Refused when no window is open. -/
def Obligations.PushGoesToItsFramePosition : Prop :=
  ∀ (b : Byte) (s : State),
    let i := s.cnt.toNat
    (∀ c : CmdWord, decodeWord c = .ok (.push b) ↔ c.toNat = 0x2000 + b.toNat) ∧
    (s.winOpen = false → exec (.push b) s = .next { s with err := true }) ∧
    (s.winOpen = true → i = 0 → exec (.push b) s = .next { s with hbad := decide (b ≠ 0x24), cnt := 1 }) ∧
    (s.winOpen = true → i = 1 →
      exec (.push b) s = .next { s with hbad := s.hbad || decide (b ≠ 0x4D), cnt := 2 }) ∧
    (s.winOpen = true → i = 2 →
      exec (.push b) s = .next { s with
        dir := decide (b = 0x3E), hbad := s.hbad || decide (b ≠ 0x3C ∧ b ≠ 0x3E), cnt := 3 }) ∧
    (s.winOpen = true → i = 3 → exec (.push b) s = .next { s with len := b, xacc := b, cnt := 4 }) ∧
    (s.winOpen = true → i = 4 → exec (.push b) s = .next { s with code := b, xacc := s.xacc ^^^ b, cnt := 5 }) ∧
    (s.winOpen = true → 5 ≤ i → i < s.len.toNat + 5 →
      ∃ m, exec (.push b) s = .next { s with pay := m, xacc := s.xacc ^^^ b, cnt := BitVec.ofNat 9 (i + 1) } ∧
        ∀ k, Memory.read? m k = if k = i - 5 then some b else Memory.read? s.pay k) ∧
    (s.winOpen = true → 5 ≤ i → i = s.len.toNat + 5 →
      exec (.push b) s = .next { s with csb := b, cseen := true, cnt := BitVec.ofNat 9 (i + 1) }) ∧
    (s.winOpen = true → 5 ≤ i → i = s.len.toNat + 6 → exec (.push b) s = .next { s with trail := true })

/-- R23: a performed PUSH adds 1 to `CNT` while `CNT < LEN + 6` and leaves it once `CNT = LEN + 6`; it never exceeds
261. -/
def Obligations.PushCountsToTheEndOfTheFrame : Prop :=
  ∀ (b : Byte) (s : State), Inv s → s.winOpen = true →
    ∃ t, exec (.push b) s = .next t ∧ t.cnt.toNat ≤ 261 ∧
      t.cnt.toNat = if s.cnt.toNat < s.len.toNat + 6 then s.cnt.toNat + 1 else s.cnt.toNat

/-- R123: EOR closes the window and latches the verdict, first condition that holds; refused when no window is open. -/
def Obligations.EorLatchesTheFirstReason : Prop :=
  (∀ c : CmdWord, decodeWord c = .ok .eor ↔ c.toNat = 0x3000) ∧
  ∀ s : State,
    (s.winOpen = false → exec .eor s = .next { s with err := true }) ∧
    (s.winOpen = true →
      let r : Reason :=
        if s.cnt.toNat = 0 then .empty
        else if s.cnt.toNat ≤ 4 then .short
        else if s.hbad = true then .badHdr
        else if s.cnt.toNat < s.len.toNat + 5 then .trunc
        else if s.strict = true ∧ s.cseen = false then .noCsum
        else if s.strict = true ∧ s.csb ≠ s.xacc then .badCsum
        else .none
      exec .eor s = .next { s with
        winOpen := false, done := true, csok := decide (s.cseen = true ∧ s.csb = s.xacc)
        reason := r, valid := decide (r.code = 0) })

/-- A frame accepted by an EOR in strict mode carries the XOR of its length, code and payload bytes as its checksum
byte (R46 items 8, 9 and 10, R126 law 2). -/
def Obligations.StrictAvailableFrameHasTheRightChecksum : Prop :=
  ∀ s t : State, Inv s → s.strict = true → s.winOpen = true → exec .eor s = .next t → t.valid = true →
    t.csok = true ∧ t.csb = checksum t.len t.code ((List.range t.len.toNat).map (payByte t))

/-- R124: from any state whatever, `FEED raw` leaves the state of the rule's table, with the verdict of `Parse`. That it
leaves `port` speaks of the model's own field (log 1). -/
def Obligations.FeedReachesTheStateOfParse : Prop :=
  ∀ (raw : List Byte) (s : State),
    let n := raw.length
    let len := raw.getD 3 0
    let cseen := decide (4 ≤ n ∧ len.toNat + 6 ≤ n)
    let xacc := xorBytes ((raw.take (len.toNat + 5)).drop 3)
    let csb := if cseen then raw.getD (len.toNat + 5) 0 else 0
    ∃ t, feed raw s = .next t ∧
      t.winOpen = false ∧ t.done = true ∧
      t.reason = parseReason raw s.strict ∧ t.valid = decide (parseReason raw s.strict = .none) ∧
      t.cnt.toNat = (if n ≤ 3 then n else min n (len.toNat + 6)) ∧
      t.dir = decide (raw[2]? = some 0x3E) ∧ t.len = len ∧ t.code = raw.getD 4 0 ∧
      (∀ k, Memory.read? t.pay k = if k < min len.toNat (n - 5) then raw[5 + k]? else Memory.read? s.pay k) ∧
      t.xacc = xacc ∧ t.cseen = cseen ∧ t.csb = csb ∧ t.trail = decide (4 ≤ n ∧ len.toNat + 6 < n) ∧
      t.csok = (cseen && decide (csb = xacc)) ∧ t.ferr = false ∧ t.hit = false ∧
      t.res = s.res ∧ t.resv = s.resv ∧ t.opb = s.opb ∧ t.err = s.err ∧ t.strict = s.strict ∧
      t.port = s.port ∧ cat t = catOf (raw.getD 4 0) ∧
      ∀ f, parse raw s.strict = .ok f →
        f.len = t.len ∧ f.code = t.code ∧ f.dir = t.dir ∧ f.cseen = t.cseen ∧ f.csok = t.csok ∧ f.trail = t.trail ∧
        f.payload.length = t.len.toNat ∧ ∀ k, k < t.len.toNat → Memory.read? t.pay k = f.payload[k]?

/-- Every response row runs to the state of R124 for its frame, with its own code and `CAT` (R87, R44). -/
def Obligations.ResponseFramesAreDelivered : Prop :=
  ∀ (s : State) (len code : Byte) (payload : List Byte) (csum : Byte), payload.length = len.toNat →
    FrameDelivered s true 5 len 0x66 payload csum (exec (.respRawImu len payload csum) s) ∧
    FrameDelivered s true 4 len 0x68 payload csum (exec (.respMotor len payload csum) s) ∧
    FrameDelivered s true 3 len 0x69 payload csum (exec (.respRc len payload csum) s) ∧
    FrameDelivered s true 1 len 0x6C payload csum (exec (.respAttitude len payload csum) s) ∧
    FrameDelivered s true 2 len 0x6D payload csum (exec (.respAltitude len payload csum) s) ∧
    FrameDelivered s true 6 len 0xC8 payload csum (exec (.respSetRawRc len payload csum) s) ∧
    (isOtherCode code = true →
      FrameDelivered s true 0 len code payload csum (exec (.respOther len code payload csum) s))

/-- Every request row runs to the state of R124 for its frame, with its own code and `CAT` (R87, R44). -/
def Obligations.RequestFramesAreDelivered : Prop :=
  ∀ (s : State) (len code : Byte) (payload : List Byte) (csum : Byte), payload.length = len.toNat →
    FrameDelivered s false 5 len 0x66 payload csum (exec (.reqRawImu len payload csum) s) ∧
    FrameDelivered s false 4 len 0x68 payload csum (exec (.reqMotor len payload csum) s) ∧
    FrameDelivered s false 3 len 0x69 payload csum (exec (.reqRc len payload csum) s) ∧
    FrameDelivered s false 1 len 0x6C payload csum (exec (.reqAttitude len payload csum) s) ∧
    FrameDelivered s false 2 len 0x6D payload csum (exec (.reqAltitude len payload csum) s) ∧
    FrameDelivered s false 6 len 0xC8 payload csum (exec (.cmdSetRawRc len payload csum) s) ∧
    (isOtherCode code = true →
      FrameDelivered s false 0 len code payload csum (exec (.reqOther len code payload csum) s))

/-- The truncated-frame property (R153) for every truncated read with a good header: unavailable as a whole, so that no
DEC and no RDB delivers anything, not even of the bytes that came; `RES` and `FERR` say so. -/
def Obligations.TruncatedFrameDeliversNothing : Prop :=
  ∀ (raw : List Byte) (s : State), 5 ≤ raw.length → raw[0]? = some 0x24 → raw[1]? = some 0x4D →
    (raw[2]? = some 0x3C ∨ raw[2]? = some 0x3E) → raw.length < (raw.getD 3 0).toNat + 5 →
    ∃ t, feed raw s = .next t ∧ t.valid = false ∧ t.reason.code = 4 ∧ t.cnt.toNat = raw.length ∧ t.ferr = false ∧
      t.res = s.res ∧
      (∀ k, k < raw.length - 5 → Memory.read? t.pay k = raw[5 + k]?) ∧
      (∀ w off, exec (.dec w off) t = .next { t with hit := false }) ∧
      ∀ off, exec (.rdb off) t = .next { t with hit := false }

/-! ## Payload access and the decoder -/

/-- R150: DEC, clause by clause, with the rest of the state unchanged. Last clause: where the EOR that closed the window
ran in strict mode, a delivering DEC means that the checksum matched. -/
def Obligations.DecDeliversTheSignedField : Prop :=
  ∀ (w : Width) (off : Byte) (s : State),
    let bytes := (List.range w.bytes).map fun j => payByte s (off.toNat + j)
    (∀ c : CmdWord, decodeWord c = .ok (.dec w off) ↔ c.toNat = 0x4000 + 256 * w.bytes + off.toNat) ∧
    (s.done = false → exec (.dec w off) s = .next { s with err := true }) ∧
    (s.done = true → s.valid = false → exec (.dec w off) s = .next { s with hit := false }) ∧
    (s.done = true → s.valid = true → (s.ferr = true ∨ s.len.toNat < off.toNat + w.bytes) →
      exec (.dec w off) s = .next { s with ferr := true, hit := false }) ∧
    (s.done = true → s.valid = true → s.ferr = false → off.toNat + w.bytes ≤ s.len.toNat →
      exec (.dec w off) s = .next { s with res := sext32 (decodeSigned bytes), resv := true, hit := true }) ∧
    ∀ u t : State, u.strict = true → u.winOpen = true → exec .eor u = .next s → exec (.dec w off) s = .next t →
      t.hit = true → t.csok = true

/-- R151: RDB, clause by clause; `FERR` is neither read nor written. -/
def Obligations.RdbDeliversTheRawByte : Prop :=
  ∀ (off : Byte) (s : State),
    (∀ c : CmdWord, decodeWord c = .ok (.rdb off) ↔ c.toNat = 0x5000 + off.toNat) ∧
    (s.done = false → exec (.rdb off) s = .next { s with err := true }) ∧
    (s.done = true → s.valid = true → off.toNat < s.len.toNat →
      ∃ v : Word32, v.toNat = (payByte s off.toNat).toNat ∧
        exec (.rdb off) s = .next { s with res := v, resv := true, hit := true }) ∧
    (s.done = true → (s.valid = false ∨ s.len.toNat ≤ off.toNat) →
      exec (.rdb off) s = .next { s with hit := false })

/-- R104: LDO loads one operand byte and leaves the other three and all else, in every phase; operand bytes persist
across every other operation except RST. -/
def Obligations.LdoLoadsOneOperandByte : Prop :=
  ∀ (i : Fin 4) (b : Byte) (s : State),
    (∀ c : CmdWord, decodeWord c = .ok (.ldo i b) ↔ c.toNat = 0x6000 + 256 * i.val + b.toNat) ∧
    ∃ t, exec (.ldo i b) s = .next t ∧ t = { s with opb := t.opb } ∧
    (∀ j : Fin 4, t.opb[j] = if j = i then b else s.opb[j]) ∧
    ∀ (other : Instr) (u : State), (∀ j c, other ≠ .ldo j c) → other ≠ .rst → exec other t = .next u → u.opb = t.opb

/-- R105: DECO decodes the first `w` operand bytes, in every phase, and cannot fail. -/
def Obligations.DecoDecodesTheOperandBytes : Prop :=
  ∀ (w : Width) (s : State),
    (∀ c : CmdWord, decodeWord c = .ok (.deco w) ↔ c.toNat = 0x7000 + 256 * w.bytes) ∧
    exec (.deco w) s = .next { s with
      res := sext32 (decodeSigned ([s.opb[0], s.opb[1], s.opb[2], s.opb[3]].take w.bytes)), resv := true, hit := true }

/-- `DECI` of any 1 to 4 bytes from any state gives their signed value (R86, R105), and touches only the decoder's
own state. -/
def Obligations.DeciGivesTheSignedValueOfItsBytes : Prop :=
  ∀ (bs : List Byte) (ops : List Instr) (s : State), (Pseudo.deci bs).expand = some ops →
    ∃ t, runAll ops s = .next t ∧ t.res = sext32 (decodeSigned bs) ∧ t.hit = true ∧ t.resv = true ∧
      t = { s with res := t.res, resv := true, hit := true, opb := t.opb }

/-- R57: DEC and RDB write only `RES`, `RESV`, `HIT` and (DEC only) `FERR`; RDB is idempotent; a DEC that delivered
gives the same again; after a DEC failed on an available frame every DEC fails. -/
def Obligations.ReadingThePayloadHasNoSideEffectOnIt : Prop :=
  ∀ s t : State, s.done = true →
    (∀ w off, exec (.dec w off) s = .next t →
      t = { s with res := t.res, resv := t.resv, hit := t.hit, ferr := t.ferr } ∧
      (t.hit = true → exec (.dec w off) t = .next t) ∧
      (s.valid = true → t.hit = false →
        t.ferr = true ∧ ∀ w' off', exec (.dec w' off') t = .next { t with hit := false })) ∧
    (∀ off, exec (.rdb off) s = .next t →
      t = { s with res := t.res, resv := t.resv, hit := t.hit } ∧ exec (.rdb off) t = .next t)

/-- R152: DEC computes `Field`, and a sequence of DECs on an available frame delivers the values up to the first field
that is missing and nothing after it. -/
def Obligations.DecDeliversUpToTheFirstMissingField : Prop :=
  ∀ s : State, s.done = true → s.valid = true → s.ferr = false →
    let get := fun p : Width × Byte =>
      field ((List.range s.len.toNat).map (payByte s)) s.len.toNat p.2.toNat p.1.bytes
    let decs := fun ps : List (Width × Byte) => ps.map fun p => Instr.dec p.1 p.2
    (∀ p v, get p = some v →
      exec (.dec p.1 p.2) s = .next { s with res := sext32 v, resv := true, hit := true }) ∧
    (∀ p, get p = none → exec (.dec p.1 p.2) s = .next { s with ferr := true, hit := false }) ∧
    ∀ (before after : List (Width × Byte)) (p : Width × Byte), (∀ q ∈ before, get q ≠ none) → get p = none →
      ∃ t, runAll (decs before) s = .next t ∧ t.ferr = false ∧
        (∀ q v, before.getLast? = some q → get q = some v → t.hit = true ∧ t.res = sext32 v) ∧
        runAll (decs (p :: after)) t = .next { t with ferr := true, hit := false }

/-- R37: once `FERR` is set, whatever the host issues short of SOR, RST and a new read, every DEC fails. -/
def Obligations.FieldErrorIsStickyWithinTheFrame : Prop :=
  ∀ (is : List Instr) (s : State), s.winOpen = false → s.done = true → s.valid = true → s.ferr = true →
    (∀ i ∈ is, keepsWindow i) →
    ∃ t, runAll is s = .next t ∧ t.ferr = true ∧
      ∀ w off, exec (.dec w off) t = .next { t with hit := false }

/-- R56: while `DONE = 1` nothing short of SOR, RST and a new read changes the frame: every DEC and RDB between one EOR
and the next SOR reads the same frame. -/
def Obligations.FrameIsFrozenWhileDone : Prop :=
  ∀ (is : List Instr) (s : State), s.winOpen = false → s.done = true → (∀ i ∈ is, keepsWindow i) →
    ∃ t, runAll is s = .next t ∧ t.pay = s.pay ∧ t.len = s.len ∧ t.code = s.code ∧ t.valid = s.valid ∧
      t.reason = s.reason ∧ t.csok = s.csok ∧ t.cnt = s.cnt ∧ t.done = true ∧ t.winOpen = false

/-- R35, R36: `RES` changes only when a DEC, RDB or DECO delivers, which `HIT` and `RESV` then say, or by RST. -/
def Obligations.ResultIsRetainedUnlessDelivered : Prop :=
  ∀ (i : Instr) (s t : State), exec i s = .next t → i ≠ .rst →
    t.res = s.res ∨ (t.hit = true ∧ t.resv = true ∧
      ((∃ w off, i = .dec w off) ∨ (∃ off, i = .rdb off) ∨ ∃ w, i = .deco w))

/-- R38: `ERR` is cleared by RST alone and has no effect on any other state. -/
def Obligations.ErrIsStickyAndLocksNothing : Prop :=
  ∀ (i : Instr) (s t : State) (e : Bool), exec i s = .next t →
    (i ≠ .rst → s.err = true → t.err = true) ∧
    ∃ u, exec i { s with err := e } = .next u ∧ { u with err := t.err } = t

/-- R39: `CFG.STRICT` is read by EOR only, so that every operation but EOR and the frame rows, which hold one, gives the
same in both modes; WRC and RST write it. -/
def Obligations.StrictIsReadByEorAlone : Prop :=
  ∀ (i : Instr) (s t : State) (v : Bool), i ≠ .eor → i ≠ .rst → (∀ x, i ≠ .wrc x) → isFrameRow i = false →
    exec i s = .next t → t.strict = s.strict ∧ exec i { s with strict := v } = .next { t with strict := v }

/-! ## The arithmetic of the decoder -/

/-- R103: the decoder and `Encode_N` are each other's inverse, and `Encode_2` is the `lo`, `hi` of R79. -/
def Obligations.DecodeSignedInvertsEncode : Prop :=
  (∀ (n : Nat) (v : Int), 1 ≤ n → -2 ^ (8 * n - 1) ≤ v → v ≤ 2 ^ (8 * n - 1) - 1 →
    (encodeLE n v).length = n ∧ decodeSigned (encodeLE n v) = v) ∧
  (∀ bs : List Byte, bs ≠ [] → encodeLE bs.length (decodeSigned bs) = bs) ∧
  ∀ v : Int, encodeLE 2 v = int16Payload [v]

/-- R102 laws 2 and 6: the range, and what appending 0xFF or 0x00 does. -/
def Obligations.DecodeSignedRangeAndSignExtension : Prop :=
  ∀ bs : List Byte, bs ≠ [] →
    (-2 ^ (8 * bs.length - 1) ≤ decodeSigned bs ∧ decodeSigned bs ≤ 2 ^ (8 * bs.length - 1) - 1) ∧
    (signBit bs = true → decodeSigned (bs ++ [0xFF]) = decodeSigned bs ∧
      decodeSigned (bs ++ [0x00]) = decodeSigned bs + 2 ^ (8 * bs.length)) ∧
    (signBit bs = false → decodeSigned (bs ++ [0x00]) = decodeSigned bs)

/-- R101: the document's bit procedure computes the closed form of R100, at every width. -/
def Obligations.BitProcedureEqualsClosedForm : Prop :=
  ∀ bs : List Byte, bs ≠ [] → decodeSignedByBits bs = decodeSigned bs

/-- R106: `RES` read back as a 32-bit two's-complement number is the decoded integer, and the bits above the field are
copies of the sign bit. -/
def Obligations.ResultReadsBackAsTheInteger : Prop :=
  ∀ bs : List Byte, 1 ≤ bs.length → bs.length ≤ 4 →
    (-2 ^ 31 ≤ decodeSigned bs ∧ decodeSigned bs ≤ 2 ^ 31 - 1) ∧
    (sext32 (decodeSigned bs)).toInt = decodeSigned bs ∧
    ∀ i, 8 * bs.length ≤ i → i < 32 → (sext32 (decodeSigned bs)).getLsbD i = signBit bs

/-- R52: what accesses of different widths see of the same bytes. -/
def Obligations.WidthsSeeTheSameBytes : Prop :=
  ∀ (s : State) (k : Nat),
    let u := fun (off w : Nat) => unsignedLE ((List.range w).map fun j => payByte s (off + j))
    u k 2 = (payByte s k).toNat + 256 * (payByte s (k + 1)).toNat ∧
    u k 4 = u k 2 + 65536 * u (k + 2) 2 ∧
    ∀ (w : Width) (off : Byte), s.done = true → s.valid = true → s.ferr = false →
      off.toNat + w.bytes ≤ s.len.toNat →
      ∃ a b, exec (.dec w off) s = .next a ∧ exec (.rdb off) s = .next b ∧ b.res.toNat = a.res.toNat % 256 ∧
        (a.res.getLsbD 31 = (payByte s (off.toNat + w.bytes - 1)).getLsbD 7)

/-! ## The checksum -/

/-- R126 laws 3 and 4: a frame is checksum-correct exactly when the XOR from the length through the checksum byte is
0; every change of one byte of the code, the payload or the checksum is caught; two changes by the same difference
are not. -/
def Obligations.ChecksumCatchesEverySingleByteError : Prop :=
  ∀ (len code csum : Byte) (p : List Byte),
    (csum = checksum len code p ↔ xorBytes (len :: code :: (p ++ [csum])) = 0) ∧
    (csum = checksum len code p →
      (∀ c, c ≠ code → csum ≠ checksum len c p) ∧
      (∀ k b, k < p.length → p[k]? ≠ some b → csum ≠ checksum len code (p.set k b)) ∧
      (∀ c, c ≠ csum → c ≠ checksum len code p) ∧
      ∀ j k d, j < k → k < p.length →
        csum = checksum len code ((p.set j (p.getD j 0 ^^^ d)).set k (p.getD k 0 ^^^ d)))

/-! ## The frame builders -/

/-- R78: a built request is the frame of R70 with no payload, and fed back it is available with its checksum right. -/
def Obligations.BuiltRequestIsAvailable : Prop :=
  ∀ (code : Byte) (s : State),
    buildRequest code = requestBytes 0 code [] (checksum 0 code []) ∧ buildCommand code [] = some (buildRequest code) ∧
    ∃ t, feed (buildRequest code) s = .next t ∧ t.valid = true ∧ t.csok = true ∧ t.dir = false ∧ t.len = 0 ∧
      t.code = code ∧ t.cnt = 6

/-- The parser, the checksum and the decoder together (R79, R124, R150): a built command frame fed to the block is
available in both modes with its checksum right, and DEC at offset 2k gives the k-th value back. -/
def Obligations.BuiltCommandReadsBack : Prop :=
  ∀ (code : Byte) (v : List Int) (raw : List Byte) (s : State), buildCommand code v = some raw →
    ∃ t, feed raw s = .next t ∧ t.valid = true ∧ t.reason = .none ∧ t.csok = true ∧ t.dir = false ∧ t.code = code ∧
      t.len.toNat = 2 * v.length ∧ t.cnt.toNat = 2 * v.length + 6 ∧
      ∀ (k : Nat) (x : Int), v[k]? = some x →
        exec (.dec .w2 (BitVec.ofNat 8 (2 * k))) t = .next { t with res := sext32 x, resv := true, hit := true }

/-! ## The outputs -/

/-- R43: every field of `STATUS` at its bits, bit 15 zero. -/
def Obligations.StatusPacksTheFlags : Prop :=
  ∀ s : State,
    (status s).getLsbD 0 = s.winOpen ∧ (status s).getLsbD 1 = s.done ∧ (status s).getLsbD 2 = s.valid ∧
    (status s).extractLsb 5 3 = s.reason.code ∧ (status s).getLsbD 6 = s.cseen ∧ (status s).getLsbD 7 = s.csok ∧
    (status s).getLsbD 8 = s.dir ∧ (status s).getLsbD 9 = s.trail ∧ (status s).getLsbD 10 = s.ferr ∧
    (status s).getLsbD 11 = s.err ∧ (status s).getLsbD 12 = s.resv ∧ (status s).getLsbD 13 = s.hit ∧
    (status s).getLsbD 14 = s.strict ∧ (status s).getLsbD 15 = false ∧
    (status s).extractLsb 23 16 = s.len ∧ (status s).extractLsb 31 24 = s.code ∧ status State.reset = 0x00000000

/-- R44: the six classes, 0 for every other code, never 7. -/
def Obligations.CatClassifiesTheCode : Prop :=
  ∀ s : State,
    (s.code = 0x6C → cat s = 1) ∧ (s.code = 0x6D → cat s = 2) ∧ (s.code = 0x69 → cat s = 3) ∧
    (s.code = 0x68 → cat s = 4) ∧ (s.code = 0x66 → cat s = 5) ∧ (s.code = 0xC8 → cat s = 6) ∧
    (s.code ∉ ([0x6C, 0x6D, 0x69, 0x68, 0x66, 0xC8] : List Byte) → cat s = 0) ∧ cat s ≠ 7

/-! ## Invariants and isolation -/

/-- The invariants of R46 hold at reset. -/
def Obligations.ResetMeetsTheInvariants : Prop := Inv State.reset

/-- Every step keeps the invariants of R46, whatever stands on the port. -/
def Obligations.EveryStepKeepsTheInvariants : Prop :=
  ∀ s t : State, Inv s → step s = .next t → Inv t

/-- The invariants of R46 hold in every state reachable from reset by any sequence of inputs. -/
def Obligations.ReachableStatesMeetTheInvariants : Prop := ∀ s : State, Reachable s → Inv s

/-- R28, R47: bytes of `PAY` that the current window has not written cannot be observed. Two states that differ only
there have the same outputs, and each step leaves two such states again. -/
def Obligations.StalePayloadBytesAreUnobservable : Prop :=
  ∀ s t s' t' : State, Inv s → Alike s t → step s = .next s' → step t = .next t' →
    outputs s = outputs t ∧ Alike s' t' ∧ outputs s' = outputs t'
end

