-- ==== Sys2Proof/Laws/Assembler.lean ====
section
/-! SUPPORT. The assembler: what cutting a line does, token by token, and that a byte's two spellings read back. -/

namespace Sys2Proof.Machine

/-- A run of characters that no cut of the assembler breaks. -/
def IsToken (t : List Char) : Prop := t ≠ [] ∧ ∀ c ∈ t, isBlank c = false ∧ c ≠ ',' ∧ c ≠ ';'

/-- No digit is a blank, a comma or a semicolon. -/
theorem digitChar_plain (n : Nat) (h : n < 16) :
    isBlank (digitChar n) = false ∧ digitChar n ≠ ',' ∧ digitChar n ≠ ';' := by
  interval_cases n <;> decide

theorem isToken_decimalText (b : Byte) : IsToken (decimalText b) := by
  have hb : b.toNat < 256 := b.isLt
  have d := digitChar_plain
  unfold IsToken decimalText
  dsimp only
  split_ifs <;> refine ⟨by simp, ?_⟩ <;> simp only [List.mem_cons, List.not_mem_nil, or_false] <;>
    rintro c (rfl | rfl | rfl) <;> exact d _ (by omega)

theorem isToken_hexText (b : Byte) : IsToken (hexText b) := by
  have hb : b.toNat < 256 := b.isLt
  have d := digitChar_plain
  refine ⟨by simp [hexText], ?_⟩
  simp only [hexText, List.mem_cons, List.not_mem_nil, or_false]
  rintro c (rfl | rfl | rfl | rfl) <;> first | decide | exact d _ (by omega)

theorem number_decimalText (b : Byte) : number (decimalText b) = some b.toNat := by
  revert b
  decide +kernel

theorem number_hexText (b : Byte) : number (hexText b) = some b.toNat := by
  revert b
  decide +kernel

@[simp] theorem byteOperand_toNat (b : Byte) : byteOperand b.toNat = some b := by
  simp [byteOperand, b.isLt]

theorem splitWhere_ne_nil (p : Char → Bool) (l : List Char) : splitWhere p l ≠ [] := by
  cases l with
  | nil => simp [splitWhere]
  | cons c l => simp only [splitWhere]; split <;> [simp; (split <;> simp)]

/-- A run without a cut stays whole in front of the first piece of what follows. -/
theorem splitWhere_append (p : Char → Bool) (t l : List Char) (h : ∀ c ∈ t, p c = false) :
    splitWhere p (t ++ l) = (t ++ (splitWhere p l).headD []) :: (splitWhere p l).tail := by
  induction t with
  | nil =>
    cases e : splitWhere p l with
    | nil => exact absurd e (splitWhere_ne_nil p l)
    | cons w ws => simp [e]
  | cons c t ih =>
    have hc : p c = false := h c (by simp)
    simp [splitWhere, hc, ih fun d hd => h d (by simp [hd])]

/-- A run without a cut is one piece. -/
theorem splitWhere_whole (p : Char → Bool) (t : List Char) (h : ∀ c ∈ t, p c = false) : splitWhere p t = [t] := by
  have := splitWhere_append p t [] h
  simpa [splitWhere] using this

/-- A run without a cut, then a cut: the run is the first piece. -/
theorem splitWhere_cut (p : Char → Bool) (t l : List Char) (c : Char) (h : ∀ d ∈ t, p d = false) (hc : p c = true) :
    splitWhere p (t ++ c :: l) = t :: splitWhere p l := by
  rw [splitWhere_append p t _ h]
  simp [splitWhere, hc]

@[simp] theorem blankTokens_nil : blankTokens [] = [] := rfl

@[simp] theorem blankTokens_space (l : List Char) : blankTokens (' ' :: l) = blankTokens l := by
  have h : isBlank ' ' = true := by decide
  simp [blankTokens, splitWhere, h]

@[simp] theorem blankTokens_spaces (k : Nat) (l : List Char) :
    blankTokens (List.replicate k ' ' ++ l) = blankTokens l := by
  induction k with
  | zero => rfl
  | succ k ih => simp [List.replicate_succ, ih]

/-- Blanks hold no token. -/
@[simp] theorem blankTokens_replicate (k : Nat) : blankTokens (List.replicate k ' ') = [] := by
  simpa using blankTokens_spaces k []

/-- A token and a blank after it. -/
theorem blankTokens_token_space (t l : List Char) (h : IsToken t) :
    blankTokens (t ++ ' ' :: l) = t :: blankTokens l := by
  have hb : isBlank ' ' = true := by decide
  simp [blankTokens, splitWhere_cut isBlank t l ' ' (fun c hc => (h.2 c hc).1) hb, h.1]

/-- A token and any number of blanks after it. -/
theorem blankTokens_token_spaces (t : List Char) (k : Nat) (h : IsToken t) :
    blankTokens (t ++ List.replicate k ' ') = [t] := by
  cases k with
  | zero => simp [blankTokens, splitWhere_whole isBlank t fun c hc => (h.2 c hc).1, h.1]
  | succ k => rw [List.replicate_succ, blankTokens_token_space t _ h, blankTokens_replicate]

/-- Tokens with one blank before each, and blanks at the end. -/
theorem blankTokens_tokens (ts : List (List Char)) (k : Nat) (h : ∀ t ∈ ts, IsToken t) :
    blankTokens (ts.flatMap (fun t => ' ' :: t) ++ List.replicate k ' ') = ts := by
  induction ts with
  | nil => simp
  | cons t ts ih =>
    have ih := ih fun u hu => h u (by simp [hu])
    have ht := h t (by simp)
    cases ts with
    | nil => simpa using blankTokens_token_spaces t k ht
    | cons u us =>
      simp only [List.flatMap_cons, List.cons_append, List.append_assoc, blankTokens_space] at ih ⊢
      rw [blankTokens_token_space t _ ht, ih]

/-- Blanks alone are no operand. -/
theorem commaNumbers_spaces (k : Nat) : commaNumbers (List.replicate k ' ') = some [] := by
  simp [commaNumbers]

/-- No blank is a comma. -/
theorem no_comma_replicate (k : Nat) : ∀ c ∈ List.replicate k ' ', (c == ',') = false := by
  intro c hc
  rw [List.eq_of_mem_replicate hc]
  decide

theorem IsToken.no_comma {t : List Char} (h : IsToken t) : ∀ c ∈ t, (c == ',') = false := by
  intro c hc
  simpa using (h.2 c hc).2.1

/-- One operand. -/
theorem commaNumbers_one (t : List Char) (n k : Nat) (h : IsToken t) (hn : number t = some n) :
    commaNumbers (' ' :: t ++ List.replicate k ' ') = some [n] := by
  have hc : ∀ c ∈ ' ' :: t ++ List.replicate k ' ', (c == ',') = false := by
    intro c hc
    rcases List.mem_append.mp hc with hc | hc
    · rcases List.mem_cons.mp hc with rfl | hc
      · decide
      · exact h.no_comma c hc
    · exact no_comma_replicate k c hc
  have ht : blankTokens (' ' :: t ++ List.replicate k ' ') = [t] := by
    simpa using blankTokens_token_spaces t k h
  rw [commaNumbers, ht, splitWhere_whole (· == ',') _ hc]
  simp only [List.isEmpty_cons, Bool.false_eq_true, if_false, List.mapM_cons, List.mapM_nil, ht, hn]
  rfl

/-- Two operands, apart by a comma and blanks. -/
theorem commaNumbers_two (t u : List Char) (n m j k : Nat) (ht : IsToken t) (hu : IsToken u) (hn : number t = some n)
    (hm : number u = some m) :
    commaNumbers (' ' :: t ++ ',' :: (List.replicate j ' ' ++ u ++ List.replicate k ' ')) = some [n, m] := by
  have c1 : ∀ c ∈ ' ' :: t, (c == ',') = false := by
    intro c hc
    rcases List.mem_cons.mp hc with rfl | hc
    · decide
    · exact ht.no_comma c hc
  have c2 : ∀ c ∈ List.replicate j ' ' ++ u ++ List.replicate k ' ', (c == ',') = false := by
    intro c hc
    rcases List.mem_append.mp hc with hc | hc
    · rcases List.mem_append.mp hc with hc | hc
      · exact no_comma_replicate j c hc
      · exact hu.no_comma c hc
    · exact no_comma_replicate k c hc
  have t1 : blankTokens (' ' :: t) = [t] := by simpa using blankTokens_token_spaces t 0 ht
  have t2 : blankTokens (List.replicate j ' ' ++ u ++ List.replicate k ' ') = [u] := by
    rw [List.append_assoc, blankTokens_spaces, blankTokens_token_spaces u k hu]
  have hne : blankTokens (' ' :: t ++ ',' :: (List.replicate j ' ' ++ u ++ List.replicate k ' ')) ≠ [] := by
    have hb : ∀ c ∈ t ++ [','], isBlank c = false := by
      intro c hc
      rcases List.mem_append.mp hc with hc | hc
      · exact (ht.2 c hc).1
      · rw [List.mem_singleton.mp hc]; decide
    have := splitWhere_append isBlank (t ++ [',']) (List.replicate j ' ' ++ u ++ List.replicate k ' ') hb
    simp only [List.cons_append, blankTokens_space]
    simp only [List.append_assoc, List.cons_append, List.nil_append] at this ⊢
    simp [blankTokens, this]
  rw [commaNumbers, splitWhere_cut (· == ',') _ _ ',' c1 (by decide), splitWhere_whole (· == ',') _ c2,
    if_neg (by simpa only [List.isEmpty_iff] using hne)]
  simp only [List.mapM_cons, List.mapM_nil, t1, t2, hn, hm]
  rfl

/-- The bytes of `FEED` and `DECI`. -/
theorem byteTokens_bytes (write : Byte → List Char) (bs : List Byte) (k : Nat) (ht : ∀ b, IsToken (write b))
    (hn : ∀ b, number (write b) = some b.toNat) :
    byteTokens ((bs.flatMap fun b => ' ' :: write b) ++ List.replicate k ' ') = some bs := by
  have h := blankTokens_tokens (bs.map write) k (by simpa using fun b _ => ht b)
  rw [List.flatMap_map] at h
  rw [byteTokens, h]
  clear h
  induction bs with
  | nil => rfl
  | cons b bs ih => simp [hn, ih]

/-- A line is its mnemonic, its operands and what follows: blanks and a comment are cut off. -/
theorem assembleLine_mnemonic (m rest comment : List Char) (k : Nat) (hm : IsToken m)
    (hr : rest = [] ∨ ∃ l, rest = ' ' :: l) (hs : ∀ c ∈ rest, c ≠ ';')
    (hc : comment = [] ∨ comment.head? = some ';') :
    assembleLine (m ++ rest ++ (List.replicate k ' ' ++ comment)) =
      match (commaNumbers (rest ++ List.replicate k ' ')).bind (assembleOp m) with
      | some i => some [i]
      | none => assemblePseudo m (rest ++ List.replicate k ' ') := by
  have hb : isBlank ' ' = true := by decide
  have cut : (m ++ rest ++ (List.replicate k ' ' ++ comment)).takeWhile (· != ';') = m ++ rest ++ List.replicate k ' ' := by
    have hbody : ∀ c ∈ m ++ rest ++ List.replicate k ' ', (c != ';') = true := by
      intro c h
      rcases List.mem_append.mp h with h | h
      · rcases List.mem_append.mp h with h | h
        · simpa using (hm.2 c h).2.2
        · simpa using hs c h
      · rw [List.eq_of_mem_replicate h]; decide
    rw [← List.append_assoc, List.takeWhile_append_of_pos hbody]
    rcases hc with rfl | hc
    · simp
    · cases comment with
      | nil => simp
      | cons c cs => simp at hc; simp [hc]
  obtain ⟨a, as, rfl⟩ := List.exists_cons_of_ne_nil hm.1
  have ha : isBlank a = false := (hm.2 a (by simp)).1
  have hall : ∀ c ∈ a :: as, (!isBlank c) = true := fun c h => by simp [(hm.2 c h).1]
  have hrest : ∀ l : List Char, l = rest ++ List.replicate k ' ' →
      l.takeWhile (fun c => !isBlank c) = [] ∧ l.dropWhile (fun c => !isBlank c) = l := by
    rintro l rfl
    rcases hr with rfl | ⟨l, rfl⟩
    · cases k <;> simp [List.replicate_succ, hb]
    · simp [hb]
  obtain ⟨e1, e2⟩ := hrest _ rfl
  have drop : ((a :: as) ++ (rest ++ List.replicate k ' ')).dropWhile isBlank =
      (a :: as) ++ (rest ++ List.replicate k ' ') := by simp [ha]
  rw [assembleLine, cut, List.append_assoc, drop, List.takeWhile_append_of_pos hall,
    List.dropWhile_append_of_pos hall, e1, e2, List.append_nil]
  rfl

/-- Blanks and a comment alone are no operation. -/
theorem assembleLine_blank (comment : List Char) (k : Nat) (hc : comment = [] ∨ comment.head? = some ';') :
    assembleLine (List.replicate k ' ' ++ comment) = some [] := by
  have hb : isBlank ' ' = true := by decide
  have cut : (List.replicate k ' ' ++ comment).takeWhile (· != ';') = List.replicate k ' ' := by
    rw [List.takeWhile_append_of_pos (by intro c h; rw [List.eq_of_mem_replicate h]; decide)]
    rcases hc with rfl | hc
    · simp
    · cases comment with
      | nil => simp
      | cons c cs => simp at hc; simp [hc]
  simp [assembleLine, cut, hb]

end Sys2Proof.Machine
end

