-- ==== Sys2Proof/Tests/Slice0.lean ====
section
/-! SUPPORT. Tests: ill-formed terms refused, words and frames written out from R80, R85 and R70, one step of each
instruction with the values of spec 95_test_vectors, and a witness for the hypotheses of each statement. -/

namespace Sys2Proof.Tests

open Sys2Proof Sys2Proof.Machine

/-! ## Helpers -/

/-- Does a result answer a next state of which `p` holds? -/
def nextIs (r : Result) (p : State → Bool) : Bool :=
  match r with
  | .next s => p s
  | .fault _ => false
  | .refused _ => false

/-- The next state of a result, the reset state when there is none. -/
def stateOf (r : Result) : State :=
  match r with
  | .next s => s
  | .fault _ => State.reset
  | .refused _ => State.reset

/-- Did decoding give this instruction? -/
def isOk (r : Except DecodeError Instr) (i : Instr) : Bool :=
  match r with
  | .ok j => decide (j = i)
  | .error _ => false

/-- Did decoding reject with this error? -/
def isErr (r : Except DecodeError Instr) (e : DecodeError) : Bool :=
  match r with
  | .ok _ => false
  | .error f => decide (f = e)

/-- The attitude frame of the document's example S6. -/
def attitudeFrame : List Byte := [0x24, 0x4D, 0x3E, 0x06, 0x6C, 0x96, 0x00, 0xE2, 0xFF, 0x0B, 0x0E, 0xE4]

/-- That frame read from reset: phase DONE, available. -/
def attitude : State := stateOf (feed attitudeFrame State.reset)

/-- That frame with its checksum byte wrong (VP13), read in strict mode. -/
def strictBad : State :=
  stateOf (feed (attitudeFrame.set 11 0xE5) { State.reset with strict := true })

/-- The truncated frame of S5: ten bytes declared, six received. -/
def truncatedFrame : List Byte := [0x24, 0x4D, 0x3E, 0x0A, 0x66, 1, 2, 3, 4, 5, 6]

/-- A window open with these bytes pushed. -/
def window (raw : List Byte) : State := stateOf (pushAll raw (openWindow State.reset))

/-- An open window at position `cnt` of a frame of `len` payload bytes. -/
def openAt (cnt : BitVec 9) (len : Byte) : State := { State.reset with winOpen := true, cnt := cnt, len := len }

/-! ## WellFormed smoke: every check refuses a term that breaks it -/

theorem test_illformed_respRawImu : (Instr.respRawImu 2 [1] 0).wellFormed = false := by decide
theorem test_illformed_respMotor : (Instr.respMotor 2 [1] 0).wellFormed = false := by decide
theorem test_illformed_respRc : (Instr.respRc 2 [1] 0).wellFormed = false := by decide
theorem test_illformed_respAttitude : (Instr.respAttitude 2 [1] 0).wellFormed = false := by decide
theorem test_illformed_respAltitude : (Instr.respAltitude 2 [1] 0).wellFormed = false := by decide
theorem test_illformed_respSetRawRc : (Instr.respSetRawRc 2 [1] 0).wellFormed = false := by decide
theorem test_illformed_reqRawImu : (Instr.reqRawImu 2 [1] 0).wellFormed = false := by decide
theorem test_illformed_reqMotor : (Instr.reqMotor 2 [1] 0).wellFormed = false := by decide
theorem test_illformed_reqRc : (Instr.reqRc 2 [1] 0).wellFormed = false := by decide
theorem test_illformed_reqAttitude : (Instr.reqAttitude 2 [1] 0).wellFormed = false := by decide
theorem test_illformed_reqAltitude : (Instr.reqAltitude 2 [1] 0).wellFormed = false := by decide
theorem test_illformed_cmdSetRawRc : (Instr.cmdSetRawRc 2 [1] 0).wellFormed = false := by decide
theorem test_illformed_respOther_code : (Instr.respOther 0 0xC8 [] 0).wellFormed = false := by decide
theorem test_illformed_respOther_payload : (Instr.respOther 0 0xC9 [1] 0).wellFormed = false := by decide
theorem test_illformed_reqOther_code : (Instr.reqOther 0 0x66 [] 0).wellFormed = false := by decide
theorem test_illformed_reqOther_payload : (Instr.reqOther 3 0x67 [1, 2] 0).wellFormed = false := by decide
theorem test_wellformed_respOther : (Instr.respOther 2 0x01 [0x34, 0x12] 0x25).wellFormed = true := by decide

/-! ## Decoding: command words of the table VE, and of R83 -/

theorem test_decode_nop : isOk (decodeWord 0x0000) (.nop) = true := by decide
theorem test_decode_sor : isOk (decodeWord 0x1000) (.sor) = true := by decide
theorem test_decode_push_low : isOk (decodeWord 0x2000) (.push 0x00) = true := by decide
theorem test_decode_push_high : isOk (decodeWord 0x20FF) (.push 0xFF) = true := by decide
theorem test_decode_eor : isOk (decodeWord 0x3000) (.eor) = true := by decide
theorem test_decode_dec1 : isOk (decodeWord 0x4100) (.dec .w1 0) = true := by decide
theorem test_decode_dec2 : isOk (decodeWord 0x4204) (.dec .w2 4) = true := by decide
theorem test_decode_dec3 : isOk (decodeWord 0x4301) (.dec .w3 1) = true := by decide
theorem test_decode_dec4 : isOk (decodeWord 0x44FF) (.dec .w4 255) = true := by decide
theorem test_decode_rdb : isOk (decodeWord 0x50FF) (.rdb 255) = true := by decide
theorem test_decode_ldo0 : isOk (decodeWord 0x6000) (.ldo 0 0x00) = true := by decide
theorem test_decode_ldo1 : isOk (decodeWord 0x6180) (.ldo 1 0x80) = true := by decide
theorem test_decode_ldo3 : isOk (decodeWord 0x63FF) (.ldo 3 0xFF) = true := by decide
theorem test_decode_deco1 : isOk (decodeWord 0x7100) (.deco .w1) = true := by decide
theorem test_decode_deco2 : isOk (decodeWord 0x7200) (.deco .w2) = true := by decide
theorem test_decode_deco4 : isOk (decodeWord 0x7400) (.deco .w4) = true := by decide
theorem test_decode_wrc0 : isOk (decodeWord 0x8000) (.wrc false) = true := by decide
theorem test_decode_wrc1 : isOk (decodeWord 0x8001) (.wrc true) = true := by decide
theorem test_decode_rst : isOk (decodeWord 0xF000) (.rst) = true := by decide

/-- VC9's illegal words, and the last reserved opcode. -/
def illegalWords : List CmdWord :=
  [0x9000, 0xA000, 0xE123, 0xEFFF, 0x0001, 0x1100, 0x2124, 0x3001, 0x4000, 0x4500, 0x4F00] ++
  [0x5100, 0x6400, 0x7000, 0x7201, 0x7500, 0x8002, 0x8101, 0xF001]

theorem test_illegal_words_set_err_alone :
    (illegalWords.all fun c => nextIs (step (setPort [.word c] State.reset)) fun t =>
      decide (t = { State.reset with err := true })) = true := by decide

theorem test_error_reserved : isErr (decodeWord 0x9123) (.reservedOpcode 9) = true := by decide
theorem test_error_must_be_zero : isErr (decodeWord 0x7201) .mustBeZero = true := by decide
theorem test_error_width : isErr (decodeWord 0x4500) (.badWidth 5) = true := by decide
theorem test_error_operand : isErr (decodeWord 0x6400) (.badOperandIndex 4) = true := by decide
theorem test_error_config : isErr (decodeWord 0x8002) (.badConfig 2) = true := by decide

/-! ## Decoding: frames -/

theorem test_decode_respRawImu : isOk (decodeFrame [0x24, 0x4D, 0x3E, 2, 0x66, 0x34, 0x12, 0x48])
    (.respRawImu 2 [0x34, 0x12] 0x48) = true := by decide
theorem test_decode_respMotor : isOk (decodeFrame [0x24, 0x4D, 0x3E, 2, 0x68, 0x34, 0x12, 0x48])
    (.respMotor 2 [0x34, 0x12] 0x48) = true := by decide
theorem test_decode_respRc : isOk (decodeFrame [0x24, 0x4D, 0x3E, 2, 0x69, 0x34, 0x12, 0x48])
    (.respRc 2 [0x34, 0x12] 0x48) = true := by decide
theorem test_decode_respAttitude : isOk (decodeFrame [0x24, 0x4D, 0x3E, 2, 0x6C, 0x34, 0x12, 0x48])
    (.respAttitude 2 [0x34, 0x12] 0x48) = true := by decide
theorem test_decode_respAltitude : isOk (decodeFrame [0x24, 0x4D, 0x3E, 2, 0x6D, 0x34, 0x12, 0x48])
    (.respAltitude 2 [0x34, 0x12] 0x48) = true := by decide
theorem test_decode_respSetRawRc : isOk (decodeFrame [0x24, 0x4D, 0x3E, 2, 0xC8, 0x34, 0x12, 0x48])
    (.respSetRawRc 2 [0x34, 0x12] 0x48) = true := by decide
theorem test_decode_respOther : isOk (decodeFrame [0x24, 0x4D, 0x3E, 2, 0x01, 0x34, 0x12, 0x48])
    (.respOther 2 0x01 [0x34, 0x12] 0x48) = true := by decide
theorem test_decode_reqRawImu : isOk (decodeFrame [0x24, 0x4D, 0x3C, 2, 0x66, 0x34, 0x12, 0x48])
    (.reqRawImu 2 [0x34, 0x12] 0x48) = true := by decide
theorem test_decode_reqMotor : isOk (decodeFrame [0x24, 0x4D, 0x3C, 2, 0x68, 0x34, 0x12, 0x48])
    (.reqMotor 2 [0x34, 0x12] 0x48) = true := by decide
theorem test_decode_reqRc : isOk (decodeFrame [0x24, 0x4D, 0x3C, 2, 0x69, 0x34, 0x12, 0x48])
    (.reqRc 2 [0x34, 0x12] 0x48) = true := by decide
theorem test_decode_reqAttitude : isOk (decodeFrame [0x24, 0x4D, 0x3C, 2, 0x6C, 0x34, 0x12, 0x48])
    (.reqAttitude 2 [0x34, 0x12] 0x48) = true := by decide
theorem test_decode_reqAltitude : isOk (decodeFrame [0x24, 0x4D, 0x3C, 2, 0x6D, 0x34, 0x12, 0x48])
    (.reqAltitude 2 [0x34, 0x12] 0x48) = true := by decide
theorem test_decode_cmdSetRawRc : isOk (decodeFrame [0x24, 0x4D, 0x3C, 2, 0xC8, 0x34, 0x12, 0x48])
    (.cmdSetRawRc 2 [0x34, 0x12] 0x48) = true := by decide
theorem test_decode_reqOther : isOk (decodeFrame [0x24, 0x4D, 0x3C, 2, 0x65, 0x34, 0x12, 0x48])
    (.reqOther 2 0x65 [0x34, 0x12] 0x48) = true := by decide

theorem test_error_short : isErr (decodeFrame [0x24, 0x4D, 0x3E, 0]) .shortRead = true := by decide
theorem test_error_header : isErr (decodeFrame [0x24, 0x4D, 0x21, 0, 1, 1]) .badHeader = true := by decide
theorem test_error_cut : isErr (decodeFrame truncatedFrame) .payloadCut = true := by decide
theorem test_error_checksum : isErr (decodeFrame [0x24, 0x4D, 0x3E, 0, 1]) .checksumMissing = true := by decide
theorem test_error_trailing : isErr (decodeFrame [0x24, 0x4D, 0x3E, 0, 1, 1, 0]) .trailingBytes = true := by decide

/-! ## The table's rows, as the host asks for them -/

theorem test_table_push : decodeTableWord 16 0x2024 = some (.push 0x24) := by decide
theorem test_table_rejects : decodeTableWord 16 0x9000 = none := by decide
theorem test_table_respMotor : decodeTableWord 40 0x244D3E0168 = some (.respMotor 1 [0] 0) := by decide
theorem test_table_reqOther : decodeTableWord 40 0x244D3C0000 = some (.reqOther 0 0 [] 0) := by decide
theorem test_fetch_word : nextIs (step (State.reset.withFetchWord 16 0x8001)) (fun t => t.strict && t.port.isEmpty) = true := by
  decide
theorem test_fetch_frame : nextIs (step (State.reset.withFetchWord 40 0x244D3E006C))
    (fun t => t.valid && !t.csok && decide (cat t = 1) && t.port.isEmpty) = true := by decide

/-! ## One step of each instruction (95_test_vectors) -/

/-- VC16. -/
theorem test_nop : nextIs (exec .nop attitude) (fun t => decide (t = attitude)) = true := by decide

/-- VA-2's last row: SOR clears the frame and keeps `RES`, `RESV`. -/
theorem test_sor : nextIs (exec .sor { attitude with ferr := true, resv := true, res := 0x96 })
    (fun t => decide (status t = 0x00001001 ∧ t.res = 0x96)) = true := by decide

/-- VP trace, position 3: `LEN = 6`, `XACC = 06`, `STATUS = 0x00060101`. -/
theorem test_push_length : nextIs (exec (.push 6) (window [0x24, 0x4D, 0x3E]))
    (fun t => decide (t.len = 6 ∧ t.xacc = 6 ∧ status t = 0x00060101)) = true := by decide

/-- VP trace, position 7: the payload byte at offset 2 and `XACC = 1E`. -/
theorem test_push_payload : nextIs (exec (.push 0xE2) (window [0x24, 0x4D, 0x3E, 0x06, 0x6C, 0x96, 0x00]))
    (fun t => decide (t.xacc = 0x1E ∧ payByte t 2 = 0xE2 ∧ t.cnt = 8)) = true := by decide

/-- VP13: wrong checksum byte, lax and strict. -/
theorem test_eor_lax : nextIs (exec .eor (window (attitudeFrame.set 11 0xE5)))
    (fun t => decide (status t = 0x6C060146)) = true := by decide

theorem test_eor_strict : nextIs (exec .eor { window (attitudeFrame.set 11 0xE5) with strict := true })
    (fun t => decide (status t = 0x6C064172 ∧ t.reason = .badCsum)) = true := by decide

/-- VA-1: `DEC 2, 2`. -/
theorem test_dec : nextIs (exec (.dec .w2 2) attitude)
    (fun t => decide (t.res = 0xFFFFFFE2 ∧ status t = 0x6C0631C6)) = true := by decide

/-- VA-2: `DEC 2, 5` runs one byte past the payload. -/
theorem test_dec_malformed : nextIs (exec (.dec .w2 5) attitude)
    (fun t => decide (t.res = 0 ∧ t.ferr = true ∧ t.hit = false)) = true := by decide

/-- VA-1: `RDB 3`. -/
theorem test_rdb : nextIs (exec (.rdb 3) attitude) (fun t => decide (t.res = 0x000000FF ∧ t.hit = true)) = true := by decide

/-- VA-1: `RDB 6`, `off = LEN`. -/
theorem test_rdb_outside : nextIs (exec (.rdb 6) attitude)
    (fun t => decide (t.hit = false ∧ t.ferr = false)) = true := by decide

/-- R104's example. -/
theorem test_ldo : nextIs (exec (.ldo 1 0x80) attitude)
    (fun t => decide (t.opb = #v[0, 0x80, 0, 0] ∧ t.hit = false)) = true := by decide

/-- VD2. -/
theorem test_deco : nextIs (exec (.deco .w2) { State.reset with opb := #v[0x00, 0x80, 0x7F, 0x7F] })
    (fun t => decide (t.res = 0xFFFF8000 ∧ status t = 0x00003000)) = true := by decide

/-- VD10. -/
theorem test_deco_four : nextIs (exec (.deco .w4) { State.reset with opb := #v[0x00, 0x00, 0x00, 0x80] })
    (fun t => decide (t.res = 0x80000000)) = true := by decide

/-- VC10. -/
theorem test_wrc : nextIs (exec (.wrc true) State.reset) (fun t => decide (status t = 0x00004000)) = true := by decide

/-- VC6. -/
theorem test_wrc_refused : nextIs (exec (.wrc true) (openWindow State.reset))
    (fun t => decide (status t = 0x00000801)) = true := by decide

/-- VC15. -/
theorem test_rst : nextIs (exec .rst { attitude with err := true, resv := true, res := 5 })
    (fun t => decide (t = State.reset)) = true := by decide

/-- VX8 as a response. -/
theorem test_respRawImu : nextIs (exec (.respRawImu 0x12 [0x0C, 0x00, 0xDE, 0xFF, 0x00, 0x02, 0xFF, 0xFF, 0x00, 0x00, 0x01, 0x00, 0x64, 0x00, 0x38, 0xFF, 0x2C, 0x01] 0xD4) State.reset)
    (fun t => decide (status t = 0x661201C6 ∧ cat t = 5)) = true := by decide

/-- VX7 as a response. -/
theorem test_respMotor : nextIs (exec (.respMotor 8 [0xE8, 0x03, 0x4C, 0x04, 0xB0, 0x04, 0x14, 0x05] 0x66) State.reset)
    (fun t => decide (status t = 0x680801C6 ∧ cat t = 4)) = true := by decide

/-- VX6 as a response. -/
theorem test_respRc : nextIs (exec (.respRc 8 [0xDC, 0x05, 0xDC, 0x05, 0xDC, 0x05, 0xE8, 0x03] 0x53) State.reset)
    (fun t => decide (status t = 0x690801C6 ∧ cat t = 3)) = true := by decide

/-- VP10. -/
theorem test_respAttitude : nextIs (exec (.respAttitude 6 [0x96, 0x00, 0xE2, 0xFF, 0x0B, 0x0E] 0xE4) State.reset)
    (fun t => decide (status t = 0x6C0601C6 ∧ cat t = 1)) = true := by decide

/-- VX4 as a response. -/
theorem test_respAltitude : nextIs (exec (.respAltitude 6 [0x39, 0x30, 0x00, 0x00, 0xF9, 0xFF] 0x64) State.reset)
    (fun t => decide (status t = 0x6D0601C6 ∧ cat t = 2)) = true := by decide

/-- VP25. -/
theorem test_respSetRawRc : nextIs (exec (.respSetRawRc 0 [] 0xC8) State.reset)
    (fun t => decide (status t = 0xC80001C6 ∧ cat t = 6)) = true := by decide

/-- VP23. -/
theorem test_respOther : nextIs (exec (.respOther 2 0x01 [0x34, 0x12] 0x25) State.reset)
    (fun t => decide (status t = 0x010201C6 ∧ cat t = 0)) = true := by decide

/-- R78: BuildRequest(102). -/
theorem test_reqRawImu : nextIs (exec (.reqRawImu 0 [] 0x66) State.reset)
    (fun t => decide (status t = 0x660000C6 ∧ cat t = 5)) = true := by decide

/-- R78: BuildRequest(104). -/
theorem test_reqMotor : nextIs (exec (.reqMotor 0 [] 0x68) State.reset)
    (fun t => decide (status t = 0x680000C6 ∧ cat t = 4)) = true := by decide

/-- R78: BuildRequest(105). -/
theorem test_reqRc : nextIs (exec (.reqRc 0 [] 0x69) State.reset)
    (fun t => decide (status t = 0x690000C6 ∧ cat t = 3)) = true := by decide

/-- VP26. -/
theorem test_reqAttitude : nextIs (exec (.reqAttitude 0 [] 0x6C) State.reset)
    (fun t => decide (status t = 0x6C0000C6 ∧ cat t = 1)) = true := by decide

/-- R78: BuildRequest(109). -/
theorem test_reqAltitude : nextIs (exec (.reqAltitude 0 [] 0x6D) State.reset)
    (fun t => decide (status t = 0x6D0000C6 ∧ cat t = 2)) = true := by decide

/-- VX1 (S3). -/
theorem test_cmdSetRawRc : nextIs (exec (.cmdSetRawRc 8 [0xDC, 0x05, 0xDC, 0x05, 0xDC, 0x05, 0xE8, 0x03] 0xF2) State.reset)
    (fun t => decide (status t = 0xC80800C6 ∧ cat t = 6)) = true := by decide

/-- R44, R124: a request with a code outside the six, checksum 01 ^ 05 ^ 09 = 0D. -/
theorem test_reqOther : nextIs (exec (.reqOther 1 0x05 [0x09] 0x0D) State.reset)
    (fun t => decide (status t = 0x050100C6 ∧ cat t = 0)) = true := by decide

/-- VX1 (S3), VX10: the checksum. -/
theorem test_checksum : checksum 8 0xC8 [0xDC, 0x05, 0xDC, 0x05, 0xDC, 0x05, 0xE8, 0x03] = 0xF2 ∧
    checksum 2 1 [0x34, 0x12] = 0x25 := by decide

/-- S3: `BuildCommand(200, [1500, 1500, 1500, 1000])`. -/
theorem test_build_command : buildCommand 0xC8 [1500, 1500, 1500, 1000] =
    some [0x24, 0x4D, 0x3C, 0x08, 0xC8, 0xDC, 0x05, 0xDC, 0x05, 0xDC, 0x05, 0xE8, 0x03, 0xF2] := by decide

/-- R102 law 3. -/
theorem test_decode_boundaries : decodeSigned [0xFF, 0xFF] = -1 ∧ decodeSigned [0x00, 0x80] = -32768 ∧
    decodeSigned [0xFF, 0x7F] = 32767 ∧ decodeSigned [0, 0] = 0 := by decide

/-- R101's two boundary checks. -/
theorem test_bit_procedure : decodeSignedByBits [0xFF, 0xFF] = -1 ∧ decodeSignedByBits [0x00, 0x80] = -32768 := by decide

/-- R85: a line, with a comment. -/
theorem test_assemble : assembleLine ['D', 'E', 'C', ' ', '2', ',', ' ', '0', 'x', '0', '4', ' ', ';', 'a'] =
    some [.dec .w2 4] := by decide

/-! ## Witnesses: the hypotheses of each statement, met together on a concrete case -/

/-- DecodeOfEncodeIsTheInstruction, EncodingSelectsOnlyItsOwnRow: the shortest and the longest frame. -/
theorem test_hyp_wellFormed : (Instr.respRc 0 [] 0).wellFormed = true ∧
    (Instr.reqOther 255 0 (List.replicate 255 7) 1).wellFormed = true ∧ (Instr.dec .w4 255).wellFormed = true := by
  decide +kernel

/-- EncodeOfDecodeIsTheInput. -/
theorem test_hyp_decode : decode (.word 0x44FF) = .ok (.dec .w4 255) ∧
    decode (.read [0x24, 0x4D, 0x3C, 0x00, 0xC8, 0xC8]) = .ok (.cmdSetRawRc 0 [] 0xC8) := ⟨rfl, rfl⟩

/-- R83's condition on a word's three fields. -/
def illegalFields (c : CmdWord) : Bool :=
  let op := c.toNat / 4096
  let w := c.toNat / 256 % 16
  let imm := c.toNat % 256
  decide ((9 ≤ op ∧ op ≤ 14) ∨ ((op = 0 ∨ op = 1 ∨ op = 3 ∨ op = 15) ∧ (w ≠ 0 ∨ imm ≠ 0)) ∨
    ((op = 2 ∨ op = 5 ∨ op = 8) ∧ w ≠ 0) ∨ ((op = 4 ∨ op = 7) ∧ (w = 0 ∨ 5 ≤ w)) ∨ (op = 7 ∧ imm ≠ 0) ∨
    (op = 6 ∧ 4 ≤ w) ∨ (op = 8 ∧ imm / 2 ≠ 0))

/-- IllegalWordOnlySetsErr: words at the edges of each clause, illegal and legal. -/
theorem test_hyp_illegal_words : ([0x9000, 0xEFFF, 0x0001, 0x1100, 0x3001, 0xF001, 0x2100, 0x5F00, 0x8100] ++
    [0x4000, 0x4500, 0x7000, 0x7500, 0x7101, 0x6400, 0x8002] : List CmdWord).all illegalFields = true ∧
    ([0x0000, 0x1000, 0x20FF, 0x3000, 0x4100, 0x44FF, 0x50FF, 0x63FF, 0x7100, 0x7400, 0x8001, 0xF000] :
      List CmdWord).any illegalFields = false := by decide

/-- AssemblerLinesAreTheirOperations: bytes written in both ways, a comment, operands at the edges of their ranges, and
a line that assembles. -/
theorem test_hyp_assembled : (∀ b : Byte, (if b.toNat < 10 then decimalText b else hexText b) = decimalText b ∨
      (if b.toNat < 10 then decimalText b else hexText b) = hexText b) ∧
    [';', 'a'].head? = some ';' ∧ 5 ≤ (5 : Byte).toNat ∧ 4 ≤ (4 : Byte).toNat ∧ 2 ≤ (2 : Byte).toNat ∧
    [(9 : Byte)].length = Width.w1.bytes ∧ [(1 : Byte), 2, 3, 4].length = Width.w4.bytes ∧
    assembleLine ['F', 'E', 'E', 'D', ' ', '3', '6'] = some [.sor, .push 36, .eor] :=
  ⟨fun b => by by_cases h : b.toNat < 10 <;> simp [h], by decide⟩

/-- StepRunsTheDecodedInstruction. -/
theorem test_hyp_step : (setPort [.word 0x1000] attitude).port = .word 0x1000 :: [] ∧
    decode (.word 0x1000) = .ok .sor := ⟨rfl, rfl⟩

/-- IdleStepChangesNothing. -/
theorem test_hyp_idle : State.reset.port = [] := rfl

/-- OperationsNeverTouchThePort, ResultIsRetainedUnlessDelivered, ErrIsStickyAndLocksNothing,
StrictIsReadByEorAlone: an operation with a next state, `ERR` set before it. -/
theorem test_hyp_exec : ∃ t, exec (.rdb 3) { attitude with err := true } = .next t ∧ t.res = 0xFF ∧
    (Instr.rdb 3 ≠ .eor ∧ Instr.rdb 3 ≠ .rst ∧ (∀ x, Instr.rdb 3 ≠ .wrc x) ∧ isFrameRow (.rdb 3) = false) :=
  ⟨stateOf (exec (.rdb 3) { attitude with err := true }), rfl, by decide, by decide, by decide, by decide, rfl⟩

/-- ResultIsRetainedUnlessDelivered: the other side, an operation that delivers nothing. -/
theorem test_hyp_exec_retained : ∃ t, exec (.rdb 6) attitude = .next t ∧ t.res = attitude.res :=
  ⟨stateOf (exec (.rdb 6) attitude), rfl, by decide⟩

/-- PhaseTableIsFollowed: a state in each phase, and a word that does not decode. -/
theorem test_hyp_phases : phase State.reset = .idle ∧ phase (openAt 3 0) = .opened ∧ phase attitude = .closed ∧
    ¬(attitude.winOpen = true ∧ attitude.done = true) ∧ decodeWord 0x9000 = .error (.reservedOpcode 9) :=
  ⟨by decide, by decide, by decide, by decide, rfl⟩

/-- WrcWritesStrictOutsideAWindow, EorLatchesTheFirstReason: both clauses. -/
theorem test_hyp_window : attitude.winOpen = false ∧ (openAt 5 0).winOpen = true := by decide

/-- PushGoesToItsFramePosition: every clause at the edges of its range, for lengths 0, 2 and 255. -/
theorem test_hyp_push_positions : framePosition (openAt 0 0).cnt.toNat 0 = .header0 ∧
    framePosition (openAt 1 0).cnt.toNat 0 = .header1 ∧ framePosition (openAt 2 0).cnt.toNat 0 = .direction ∧
    framePosition (openAt 3 0).cnt.toNat 0 = .length ∧ framePosition (openAt 4 0).cnt.toNat 0 = .code ∧
    framePosition (openAt 5 2).cnt.toNat 2 = .payload 0 ∧ framePosition (openAt 6 2).cnt.toNat 2 = .payload 1 ∧
    framePosition (openAt 259 255).cnt.toNat 255 = .payload 254 ∧ framePosition (openAt 5 0).cnt.toNat 0 = .checksum ∧
    framePosition (openAt 7 2).cnt.toNat 2 = .checksum ∧ framePosition (openAt 260 255).cnt.toNat 255 = .checksum ∧
    framePosition (openAt 6 0).cnt.toNat 0 = .trailing ∧ framePosition (openAt 261 255).cnt.toNat 255 = .trailing := by
  decide

/-- The same clauses' hypotheses, as the statement writes them. -/
theorem test_hyp_push_clauses :
    ((openAt 0 0).winOpen = true ∧ (openAt 0 0).cnt.toNat = 0) ∧ (openAt 1 0).cnt.toNat = 1 ∧
    (openAt 2 0).cnt.toNat = 2 ∧ (openAt 3 0).cnt.toNat = 3 ∧ (openAt 4 0).cnt.toNat = 4 ∧
    (5 ≤ (openAt 259 255).cnt.toNat ∧ (openAt 259 255).cnt.toNat < (openAt 259 255).len.toNat + 5) ∧
    (5 ≤ (openAt 5 0).cnt.toNat ∧ (openAt 5 0).cnt.toNat = (openAt 5 0).len.toNat + 5) ∧
    (5 ≤ (openAt 261 255).cnt.toNat ∧ (openAt 261 255).cnt.toNat = (openAt 261 255).len.toNat + 6) ∧
    State.reset.winOpen = false := by decide

/-- The invariants hold of the window before the first byte: PushCountsToTheEndOfTheFrame, counting. -/
theorem test_hyp_inv_open : Inv (openWindow State.reset) ∧ (openWindow State.reset).winOpen = true :=
  ⟨by constructor <;> decide, rfl⟩

/-- The window of a whole frame with its header good, `CNT = LEN + 6`. -/
def fullWindow : State := { window [0x24, 0x4D, 0x3E, 1, 2, 7, 4] with strict := true }

/-- PushCountsToTheEndOfTheFrame, at the end of the frame; StrictAvailableFrameHasTheRightChecksum. -/
theorem test_hyp_inv_full : Inv fullWindow ∧ fullWindow.winOpen = true ∧ fullWindow.strict = true ∧
    fullWindow.cnt.toNat = fullWindow.len.toNat + 6 ∧
    nextIs (exec .eor fullWindow) (fun t => t.valid) = true :=
  ⟨by constructor <;> decide, by decide, by decide, by decide, by decide⟩

/-- EorLatchesTheFirstReason: windows that meet each condition of the verdict, at its edges. -/
theorem test_hyp_verdicts : verdict (openAt 0 0) = .empty ∧ verdict (openAt 1 0) = .short ∧
    verdict (openAt 4 0) = .short ∧ verdict { openAt 5 0 with hbad := true } = .badHdr ∧
    verdict (openAt 5 1) = .trunc ∧ verdict { openAt 5 0 with strict := true } = .noCsum ∧
    verdict { openAt 6 0 with strict := true, cseen := true, csb := 1 } = .badCsum ∧ verdict (openAt 6 1) = .none := by
  decide

/-- FeedReachesTheStateOfParse: a read that `Parse` accepts. -/
theorem test_hyp_parse : ∃ f, parse attitudeFrame true = .ok f := ⟨_, rfl⟩

/-- ResponseFramesAreDelivered, RequestFramesAreDelivered. -/
theorem test_hyp_frames : (List.replicate 255 (3 : Byte)).length = (255 : Byte).toNat ∧
    ([] : List Byte).length = (0 : Byte).toNat ∧ isOtherCode 0x67 = true := by
  decide +kernel

/-- TruncatedFrameDeliversNothing: no payload byte at all, and one byte missing. -/
theorem test_hyp_truncated : ∀ raw ∈ ([[0x24, 0x4D, 0x3C, 1, 2], truncatedFrame] : List (List Byte)),
    5 ≤ raw.length ∧ raw[0]? = some 0x24 ∧ raw[1]? = some 0x4D ∧ (raw[2]? = some 0x3C ∨ raw[2]? = some 0x3E) ∧
    raw.length < (raw.getD 3 0).toNat + 5 := by decide

/-- DecDeliversTheSignedField: each clause, the bounds at `off + w = LEN` and `LEN + 1`. -/
theorem test_hyp_dec : State.reset.done = false ∧ (strictBad.done = true ∧ strictBad.valid = false) ∧
    (attitude.done = true ∧ attitude.valid = true ∧ attitude.ferr = false ∧
      (4 : Byte).toNat + Width.w2.bytes ≤ attitude.len.toNat) ∧
    attitude.len.toNat < (5 : Byte).toNat + Width.w2.bytes ∧ ({ attitude with ferr := true } : State).ferr = true := by
  decide

/-- RdbDeliversTheRawByte: each clause, the bounds at `off = LEN - 1` and `LEN`. -/
theorem test_hyp_rdb : State.reset.done = false ∧
    (attitude.done = true ∧ attitude.valid = true ∧ (5 : Byte).toNat < attitude.len.toNat) ∧
    attitude.len.toNat ≤ (6 : Byte).toNat ∧ (strictBad.done = true ∧ strictBad.valid = false) := by decide

/-- DeciGivesTheSignedValueOfItsBytes: one byte and four. -/
theorem test_hyp_deci : (Pseudo.deci [9]).expand = some [.ldo 0 9, .deco .w1] ∧
    (Pseudo.deci [1, 2, 3, 4]).expand = some [.ldo 0 1, .ldo 1 2, .ldo 2 3, .ldo 3 4, .deco .w4] := by decide

/-- ReadingThePayloadHasNoSideEffectOnIt: a DEC that delivers, one that does not, an RDB. -/
theorem test_hyp_reading : attitude.done = true ∧ attitude.valid = true ∧
    (∃ t, exec (.dec .w2 0) attitude = .next t ∧ t.hit = true) ∧
    (∃ t, exec (.dec .w2 255) attitude = .next t ∧ t.hit = false) ∧ ∃ t, exec (.rdb 0) attitude = .next t :=
  ⟨by decide, by decide, ⟨stateOf (exec (.dec .w2 0) attitude), rfl, by decide⟩,
    ⟨stateOf (exec (.dec .w2 255) attitude), rfl, by decide⟩, stateOf (exec (.rdb 0) attitude), rfl⟩

/-- DecDeliversUpToTheFirstMissingField: a field that is there, then one that is not. -/
theorem test_hyp_fields : attitude.done = true ∧ attitude.valid = true ∧ attitude.ferr = false ∧
    field ((List.range attitude.len.toNat).map (payByte attitude)) attitude.len.toNat 2 2 = some (-30) ∧
    field ((List.range attitude.len.toNat).map (payByte attitude)) attitude.len.toNat 5 2 = none := by decide

/-- FieldErrorIsStickyWithinTheFrame, FrameIsFrozenWhileDone. -/
theorem test_hyp_frozen : let s : State := { attitude with ferr := true }
    s.winOpen = false ∧ s.done = true ∧ s.valid = true ∧ s.ferr = true ∧
    ∀ i ∈ [Instr.dec .w2 0, .push 1, .eor, .wrc true, .ldo 0 1, .deco .w1, .rdb 0, .nop], keepsWindow i := by
  refine ⟨by decide, by decide, by decide, by decide, ?_⟩
  simp only [keepsWindow]
  decide

/-- DecodeSignedInvertsEncode, the bounds of the range; and the lists of the arithmetic statements. -/
theorem test_hyp_range : (1 ≤ 2 ∧ -2 ^ (8 * 2 - 1) ≤ (-32768 : Int) ∧ (-32768 : Int) ≤ 2 ^ (8 * 2 - 1) - 1) ∧
    (32767 : Int) ≤ 2 ^ (8 * 2 - 1) - 1 ∧ ([0x80] : List Byte) ≠ [] ∧ signBit [0x80] = true ∧ signBit [0x7F] = false ∧
    1 ≤ ([0, 0, 0, 0x80] : List Byte).length ∧ ([0, 0, 0, 0x80] : List Byte).length ≤ 4 := by decide

/-- ChecksumCatchesEverySingleByteError. -/
theorem test_hyp_checksum : (0x25 : Byte) = checksum 2 1 [0x34, 0x12] ∧ (2 : Byte) ≠ 1 ∧
    ([0x34, 0x12] : List Byte)[1]? ≠ some 0x13 ∧ 0 < 1 ∧ 1 < ([0x34, 0x12] : List Byte).length := by decide

/-- BuiltCommandReadsBack: the bounds of an int16, and of the number of values. -/
theorem test_hyp_build : buildCommand 0xC8 [-32768, 32767] ≠ none ∧ [-32768, (32767 : Int)][1]? = some 32767 ∧
    buildable (List.replicate 127 0) = true ∧ buildable (List.replicate 128 0) = false := by
  decide +kernel

/-- CatClassifiesTheCode: one state for each class. -/
theorem test_hyp_cat : ({ State.reset with code := 0x6C } : State).code = 0x6C ∧
    (0x65 : Byte) ∉ ([0x6C, 0x6D, 0x69, 0x68, 0x66, 0xC8] : List Byte) := by decide

/-- EveryStepKeepsTheInvariants, StalePayloadBytesAreUnobservable: a state with an input on its port, and one that
differs from it in an unwritten byte of `PAY`. -/
theorem test_hyp_alike : let s := setPort [.word 0x2024] (openWindow State.reset)
    let t : State := { s with pay := [(7, 9)] }
    Inv s ∧ Alike s t ∧ s ≠ t ∧ (∃ u, step s = .next u) ∧ ∃ u, step t = .next u :=
  ⟨by constructor <;> decide, ⟨rfl, by decide⟩, by decide, ⟨_, rfl⟩, ⟨_, rfl⟩⟩

/-- ReachableStatesMeetTheInvariants: a run of one step. -/
theorem test_hyp_reachable : Reachable (openWindow State.reset) :=
  .step _ _ (.issue State.reset (.word 0x1000) .reset) rfl

end Sys2Proof.Tests
end

section
/-! PROOFS, family 00_scope. Nothing stops the block (R9, R197): every operation, every input and every step answers a
next state; and a step runs the instruction its oldest input decodes to (R6, R60). -/

namespace Sys2Proof.Machine

/-! ## The operations that the laws above do not yet give as a next state -/

/-- EOR always performs: in phase OPEN the verdict, else the refusal (R123). -/
theorem execEor_eq (s : State) : execEor s = .next (if s.winOpen then latchVerdict s else refuse s) :=
  (apply_ite Host.Outcome.next _ _ _).symm

/-- WRC always performs: with a window open the refusal, else the write (R166). -/
theorem execWrc_eq (v : Bool) (s : State) :
    execWrc v s = .next (if s.winOpen then refuse s else setStrict v s) :=
  (apply_ite Host.Outcome.next _ _ _).symm

/-- A row of the table that is encoded as a read is performed as `FEED` of that read (R87, R124; log 2). -/
theorem exec_eq_feed_of_encode (i : Instr) (raw : List Byte) (h : encode i = .read raw) (s : State) :
    exec i s = feed raw s := by
  cases i with
  | nop | sor | push | eor | dec | rdb | ldo | deco | wrc | rst => cases h
  | respRawImu | respMotor | respRc | respAttitude | respAltitude | respSetRawRc | respOther
  | reqRawImu | reqMotor | reqRc | reqAttitude | reqAltitude | cmdSetRawRc | reqOther => cases h; rfl

/-! ## Every operation, every input, every step -/

/-- No operation stops the block. The three whose rule reads or writes `PAY` rest on their bounds: PUSH stores below
`LEN`, DEC and RDB read below `LEN`, and `LEN` is a byte (R8, R50). -/
theorem exec_has_next (i : Instr) (s : State) : ∃ t, exec i s = .next t := by
  cases i with
  | nop | sor | ldo | deco | rst => exact ⟨_, rfl⟩
  | push b => exact ⟨_, execPush_eq b s⟩
  | eor => exact ⟨_, execEor_eq s⟩
  | dec w off => exact ⟨_, execDec_eq w off s⟩
  | rdb off => exact ⟨_, execRdb_eq off s⟩
  | wrc v => exact ⟨_, execWrc_eq v s⟩
  | respRawImu | respMotor | respRc | respAttitude | respAltitude | respSetRawRc | respOther
  | reqRawImu | reqMotor | reqRc | reqAttitude | reqAltitude | cmdSetRawRc | reqOther =>
    exact ⟨_, (exec_eq_feed_of_encode _ _ rfl s).trans (feed_eq _ s)⟩

/-- An input that is no row of the table does not stop the block either (R83, R124). -/
theorem performUndecoded_has_next (input : HostInput) (s : State) : ∃ t, performUndecoded input s = .next t := by
  cases input with
  | word c => exact ⟨refuse s, rfl⟩
  | read raw => exact ⟨_, feed_eq raw s⟩

/-- A step whose oldest input decodes runs the instruction. -/
theorem step_of_decode_ok (s : State) (input : HostInput) (rest : List HostInput) (i : Instr)
    (hport : s.port = input :: rest) (hdec : decode input = .ok i) : step s = exec i (setPort rest s) := by
  rw [step_cons s input rest hport, hdec]

/-- A step whose oldest input does not decode is the block's answer to an input that is no row. -/
theorem step_of_decode_error (s : State) (input : HostInput) (rest : List HostInput) (e : DecodeError)
    (hport : s.port = input :: rest) (hdec : decode input = .error e) :
    step s = performUndecoded input (setPort rest s) := by
  rw [step_cons s input rest hport, hdec]

/-- No step stops the block: idle, a decoded instruction, or an input that is none. -/
theorem step_has_next (s : State) : ∃ t, step s = .next t := by
  cases hport : s.port with
  | nil => exact ⟨s, step_idle s hport⟩
  | cons input rest =>
    cases hdec : decode input with
    | ok i => rw [step_of_decode_ok s input rest i hport hdec]; exact exec_has_next i _
    | error e => rw [step_of_decode_error s input rest e hport hdec]; exact performUndecoded_has_next input _

/-! ## The statements -/

/-- Settles O13, from the next state of each operation and of each kind of step. -/
theorem everyOperationAndStepHasANextState : Obligations.EveryOperationAndStepHasANextState :=
  ⟨exec_has_next, step_has_next⟩

/-- Settles O8: the decoded case of a step with an input on the port. -/
theorem stepRunsTheDecodedInstruction : Obligations.StepRunsTheDecodedInstruction :=
  step_of_decode_ok

end Sys2Proof.Machine
end

section
/-! PROOFS, family 10_state. What an operation can do to the state, said once: each operation of the command word is
read as a decision and an effect. `effectOf` says which effect it has in a state, `Effect.apply` writes it. What a
statement claims of every operation is shown of the eleven effects; `KeptByEffects.keeps_exec` and
`KeptByEffects.keeps_step` carry it to the frame rows and to the step. -/

namespace Sys2Proof.Machine

/-! ## The effects of the operations -/

/-- What an operation of the command word can do to the state. -/
inductive Effect where
  /-- Nothing is written (R165). -/
  | same
  /-- Misuse (R186). -/
  | refused
  /-- SOR (R121). -/
  | opened
  /-- A PUSH that performs (R122). -/
  | received (b : Byte)
  /-- An EOR that performs, with its verdict (R123). -/
  | closed (r : Reason)
  /-- A DEC or RDB that performs and delivers nothing (R150, R151). -/
  | missed
  /-- A DEC outside the payload, or after one (R150, R37). -/
  | malformed
  /-- A DEC, RDB or DECO that delivers a value (R35, R36). -/
  | delivered (v : Word32)
  /-- LDO (R104). -/
  | operand (i : Fin 4) (b : Byte)
  /-- A WRC that performs (R166). -/
  | mode (v : Bool)
  /-- RST (R167). -/
  | reset

/-- What an effect writes. -/
def Effect.apply : Effect → State → State
  | .same, s => s
  | .refused, s => refuse s
  | .opened, s => openWindow s
  | .received b, s => pushed b s
  | .closed r, s => { closeWindow s with valid := decide (r = .none), reason := r }
  | .missed, s => noUpdate s
  | .malformed, s => raiseMalformed s
  | .delivered v, s => deliver v s
  | .operand i b, s => setOperand i b s
  | .mode v, s => setStrict v s
  | .reset, s => resetBlock s

/-- The effect an operation of the command word has in a state. A frame row has no single effect: it is a run of SOR,
PUSH and EOR (R86), and the value `same` given here for it is not used. -/
def effectOf : Instr → State → Effect
  | .nop, _ => .same
  | .sor, _ => .opened
  | .push b, s => if s.winOpen then .received b else .refused
  | .eor, s => if s.winOpen then .closed (verdict s) else .refused
  | .dec w off, s =>
    if s.done = false then .refused
    else if s.valid = false then .missed
    else if s.ferr = true ∨ s.len.toNat < off.toNat + w.bytes then .malformed
    else .delivered (sext32 (decodeSigned ((List.range w.bytes).map fun j => payByte s (off.toNat + j))))
  | .rdb off, s =>
    if s.done = false then .refused
    else if s.valid = true ∧ off.toNat < s.len.toNat then .delivered (zext32 (payByte s off.toNat))
    else .missed
  | .ldo i b, _ => .operand i b
  | .deco w, s => .delivered (sext32 (decodeSigned (operandBytes w s)))
  | .wrc v, s => if s.winOpen then .refused else .mode v
  | .rst, _ => .reset
  | _, _ => .same

/-- Every operation of the command word performs its effect. -/
theorem exec_eq_apply (i : Instr) (h : isFrameRow i = false) (s : State) :
    exec i s = .next ((effectOf i s).apply s) := by
  cases i with
  | nop | sor | ldo | deco | rst => rfl
  | eor =>
    refine (execEor_eq s).trans ?_
    simp only [effectOf, latchVerdict_eq]
    split_ifs <;> rfl
  | push | dec | rdb | wrc =>
    simp only [exec, execPush_eq, execDec_eq, execRdb_eq, execWrc_eq, effectOf]
    split_ifs <;> rfl
  | respRawImu | respMotor | respRc | respAttitude | respAltitude | respSetRawRc | respOther
  | reqRawImu | reqMotor | reqRc | reqAttitude | reqAltitude | cmdSetRawRc | reqOther => cases h

/-- When an effect occurs: the operation it belongs to, and the phase and flags that operation asks for (R169). -/
def Effect.Guard (i : Instr) (s : State) : Effect → Prop
  | .same | .refused => True
  | .opened => i = .sor
  | .received b => i = .push b ∧ s.winOpen = true
  | .closed r => i = .eor ∧ s.winOpen = true ∧ r = verdict s
  | .missed => s.done = true
  | .malformed => s.done = true ∧ s.valid = true
  | .delivered _ => (∃ w off, i = .dec w off) ∨ (∃ off, i = .rdb off) ∨ ∃ w, i = .deco w
  | .operand k b => i = .ldo k b
  | .mode v => i = .wrc v
  | .reset => i = .rst

/-- An effect occurs under its guard only. -/
theorem effectOf_guard (i : Instr) (s : State) : (effectOf i s).Guard i s := by
  cases i with
  | nop | sor | ldo | rst => simp [effectOf, Effect.Guard]
  | push | eor | wrc => simp only [effectOf]; split_ifs with ho <;> simp [Effect.Guard, ho]
  | dec w off =>
    simp only [effectOf]
    split_ifs with hd hv _
    · trivial
    · exact eq_true_of_ne_false hd
    · exact ⟨eq_true_of_ne_false hd, eq_true_of_ne_false hv⟩
    · exact .inl ⟨w, off, rfl⟩
  | rdb off =>
    simp only [effectOf]
    split_ifs with hd _
    · trivial
    · exact .inr (.inl ⟨off, rfl⟩)
    · exact eq_true_of_ne_false hd
  | deco w => exact .inr (.inr ⟨w, rfl⟩)
  | respRawImu | respMotor | respRc | respAttitude | respAltitude | respSetRawRc | respOther
  | reqRawImu | reqMotor | reqRc | reqAttitude | reqAltitude | cmdSetRawRc | reqOther => trivial

/-- A frame row is `FEED` of some read (R87). -/
theorem exec_eq_feed_of_isFrameRow (i : Instr) (h : isFrameRow i = true) : ∃ raw, ∀ s, exec i s = feed raw s := by
  cases i with
  | nop | sor | push | eor | dec | rdb | ldo | deco | wrc | rst => cases h
  | respRawImu | respMotor | respRc | respAttitude | respAltitude | respSetRawRc | respOther
  | reqRawImu | reqMotor | reqRc | reqAttitude | reqAltitude | cmdSetRawRc | reqOther =>
    exact ⟨_, exec_eq_feed_of_encode _ _ rfl⟩

/-! ## Relations between two runs -/

/-- From related states `f` answers related states. -/
def Keeps (R : State → State → Prop) (f : State → Result) : Prop :=
  ∀ s t s' t', R s t → f s = .next s' → f t = .next t' → R s' t'

theorem Keeps.andThen {R : State → State → Prop} {f g : State → Result} (hf : Keeps R f) (hg : Keeps R g) :
    Keeps R fun s => andThen (f s) g := by
  intro s t s' t' h hs ht
  obtain ⟨u, hu, hs⟩ := (andThen_eq_next _ _ _).mp hs
  obtain ⟨v, hv, ht⟩ := (andThen_eq_next _ _ _).mp ht
  exact hg u v s' t' (hf s t u v h hu hv) hs ht

/-- What one PUSH keeps, any number of them keep. -/
theorem keeps_pushAll {R : State → State → Prop} (hpush : ∀ b, Keeps R (execPush b)) (bs : List Byte) :
    Keeps R (pushAll bs) := by
  induction bs with
  | nil => intro s t s' t' h hs ht; cases hs; cases ht; exact h
  | cons b bs ih => exact (hpush b).andThen ih

/-- What SOR, PUSH and EOR keep, a whole read keeps (R86). -/
theorem keeps_feed {R : State → State → Prop} (hsor : Keeps R execSor) (hpush : ∀ b, Keeps R (execPush b))
    (heor : Keeps R execEor) (raw : List Byte) : Keeps R (feed raw) :=
  hsor.andThen ((keeps_pushAll hpush raw).andThen heor)

/-- A relation under which the operations of a class `A` take the same effect, and that these effects keep. -/
structure KeptByEffects (A : Instr → Prop) (R : State → State → Prop) : Prop where
  effectOf_eq : ∀ (i : Instr) (s t : State), A i → R s t → effectOf i t = effectOf i s
  apply : ∀ (i : Instr) (e : Effect) (s t : State), A i → R s t → e.Guard i s → R (e.apply s) (e.apply t)

section
variable {A : Instr → Prop} {R : State → State → Prop}

/-- One operation of the command word, from the effects. -/
theorem KeptByEffects.keeps_word (h : KeptByEffects A R) (i : Instr) (hi : A i) (hrow : isFrameRow i = false) :
    Keeps R (exec i) := by
  intro s t s' t' hR hs ht
  rw [exec_eq_apply i hrow] at hs ht
  cases hs; cases ht
  rw [h.effectOf_eq i s t hi hR]
  exact h.apply i _ s t hi hR (effectOf_guard i s)

/-- A whole read, from the effects of SOR, PUSH and EOR. -/
theorem KeptByEffects.keeps_feed (h : KeptByEffects A R) (hsor : A .sor) (hpush : ∀ b, A (.push b)) (heor : A .eor)
    (raw : List Byte) : Keeps R (feed raw) :=
  Machine.keeps_feed (h.keeps_word .sor hsor rfl) (fun b => h.keeps_word (.push b) (hpush b) rfl)
    (h.keeps_word .eor heor rfl) raw

/-- Every instruction of the class, frame rows included. -/
theorem KeptByEffects.keeps_exec (h : KeptByEffects A R) (hsor : A .sor) (hpush : ∀ b, A (.push b)) (heor : A .eor)
    (i : Instr) (hi : A i) : Keeps R (exec i) := by
  cases hrow : isFrameRow i with
  | false => exact h.keeps_word i hi hrow
  | true =>
    obtain ⟨raw, hraw⟩ := exec_eq_feed_of_isFrameRow i hrow
    rw [funext hraw]
    exact h.keeps_feed hsor hpush heor raw

end

/-- A step of two states with the same inputs waiting, when every operation keeps the relation. -/
theorem KeptByEffects.keeps_step {R : State → State → Prop} (h : KeptByEffects (fun _ => True) R)
    (hport : ∀ s t, R s t → t.port = s.port) (hset : ∀ p s t, R s t → R (setPort p s) (setPort p t)) :
    Keeps R step := by
  intro s t s' t' hR hs ht
  have htp := hport s t hR
  cases hsp : s.port with
  | nil =>
    rw [step_idle s hsp] at hs
    rw [step_idle t (htp.trans hsp)] at ht
    cases hs; cases ht; exact hR
  | cons input rest =>
    rw [step_cons s input rest hsp] at hs
    rw [step_cons t input rest (htp.trans hsp)] at ht
    have hR' := hset rest s t hR
    cases hdec : decode input with
    | ok i =>
      rw [hdec] at hs ht
      exact h.keeps_exec trivial (fun _ => trivial) trivial i trivial _ _ s' t' hR' hs ht
    | error e =>
      rw [hdec] at hs ht
      cases input with
      | word c => cases hs; cases ht; exact h.apply .nop .refused _ _ trivial hR' trivial
      | read raw => exact h.keeps_feed trivial (fun _ => trivial) trivial raw _ _ s' t' hR' hs ht

/-! ## Predicates of one state -/

/-- A predicate every effect of the class keeps, as a relation of a state with itself. -/
theorem keptByEffects_of_predicate {A : Instr → Prop} {P : State → Prop}
    (h : ∀ (i : Instr) (e : Effect) (s : State), A i → P s → e.Guard i s → P (e.apply s)) :
    KeptByEffects A fun s t => t = s ∧ P s where
  effectOf_eq := by rintro i s t _ ⟨rfl, _⟩; rfl
  apply := by rintro i e s t hi ⟨rfl, hP⟩ hg; exact ⟨rfl, h i e _ hi hP hg⟩

/-- A predicate every effect but those of RST keeps, every instruction but RST keeps. -/
theorem exec_keeps_of_ne_rst {P : State → Prop}
    (h : ∀ (i : Instr) (e : Effect) (s : State), i ≠ .rst → P s → e.Guard i s → P (e.apply s))
    (i : Instr) (hi : i ≠ .rst) (s t : State) (hP : P s) (ht : exec i s = .next t) : P t :=
  ((keptByEffects_of_predicate h).keeps_exec (by decide) (by simp) (by decide) i hi s s t t ⟨rfl, hP⟩ ht ht).2

end Sys2Proof.Machine
end

section
/-! PROOFS, family 10_state. The reset values (R47) and the outputs STATUS and CAT (R43, R44). -/

namespace Sys2Proof.Machine

/-! ## The outputs -/

/-- Settles O18: the reset state is closed data, and a byte of `PAY` that is not listed reads as the free one. -/
theorem resetStateIsAllZero : Obligations.ResetStateIsAllZero :=
  ⟨rfl, rfl, rfl, rfl, rfl, rfl, rfl, rfl, rfl, rfl, rfl, rfl, rfl, rfl, rfl, rfl, rfl, rfl, rfl, rfl, rfl,
    fun _ => rfl, rfl, rfl, rfl⟩

/-- The classes of R44 are 0 to 6. -/
theorem catOf_ne_seven (code : Byte) : catOf code ≠ 7 := by
  unfold catOf
  split_ifs <;> decide

/-- Settles O49, code by code. -/
theorem catClassifiesTheCode : Obligations.CatClassifiesTheCode := by
  intro s
  refine ⟨?_, ?_, ?_, ?_, ?_, ?_, fun hother => ?_, catOf_ne_seven s.code⟩
  case refine_7 =>
    simp only [List.mem_cons, List.not_mem_nil, or_false, not_or] at hother
    obtain ⟨hAttitude, hAltitude, hRc, hMotor, hRawImu, hSetRawRc⟩ := hother
    exact (if_neg hAttitude).trans <| (if_neg hAltitude).trans <| (if_neg hRc).trans <| (if_neg hMotor).trans <|
      (if_neg hRawImu).trans (if_neg hSetRawRc)
  all_goals intro hcode; rw [cat, hcode]; rfl

/-- The number that STATUS packs (R43). -/
def statusNat (s : State) : Nat :=
  s.winOpen.toNat + 2 ^ 1 * s.done.toNat + 2 ^ 2 * s.valid.toNat + 2 ^ 3 * s.reason.code.toNat +
    2 ^ 6 * s.cseen.toNat + 2 ^ 7 * s.csok.toNat + 2 ^ 8 * s.dir.toNat + 2 ^ 9 * s.trail.toNat +
    2 ^ 10 * s.ferr.toNat + 2 ^ 11 * s.err.toNat + 2 ^ 12 * s.resv.toNat + 2 ^ 13 * s.hit.toNat +
    2 ^ 14 * s.strict.toNat + 2 ^ 16 * s.len.toNat + 2 ^ 24 * s.code.toNat

theorem status_eq (s : State) : status s = BitVec.ofNat 32 (statusNat s) := rfl

/-- A flag of STATUS, when the packed number has it there. -/
theorem status_getLsbD (s : State) (i : Nat) (b : Bool) (hi : i < 32) (h : statusNat s / 2 ^ i % 2 = b.toNat) :
    (status s).getLsbD i = b := by
  rw [status_eq, BitVec.getLsbD_ofNat, Nat.testBit_eq_decide_div_mod_eq, h]
  cases b <;> simp [hi]

/-- A field of STATUS, when the packed number has it there. -/
theorem status_extractLsb (s : State) (hi lo : Nat) (v : BitVec (hi - lo + 1)) (hhi : hi < 32) (hlo : lo ≤ hi)
    (h : statusNat s / 2 ^ lo % 2 ^ (hi - lo + 1) = v.toNat) : (status s).extractLsb hi lo = v := by
  have hpow : 2 ^ 32 = 2 ^ lo * 2 ^ (32 - lo) := by rw [← Nat.pow_add]; congr 1; omega
  have hdvd : 2 ^ (hi - lo + 1) ∣ 2 ^ (32 - lo) := Nat.pow_dvd_pow 2 (by omega)
  apply BitVec.eq_of_toNat_eq
  rw [BitVec.extractLsb_toNat, status_eq, BitVec.toNat_ofNat, Nat.shiftRight_eq_div_pow, hpow,
    Nat.mod_mul_right_div_self, Nat.mod_mod_of_dvd _ hdvd, h]

/-- Settles O48: each flag is one bit wide and each field keeps its width, so that the packed number has each of them
at its place. -/
theorem statusPacksTheFlags : Obligations.StatusPacksTheFlags := by
  intro s
  have hOpen := s.winOpen.toNat_le
  have hDone := s.done.toNat_le
  have hValid := s.valid.toNat_le
  have hReason := s.reason.code.isLt
  have hCseen := s.cseen.toNat_le
  have hCsok := s.csok.toNat_le
  have hDir := s.dir.toNat_le
  have hTrail := s.trail.toNat_le
  have hFerr := s.ferr.toNat_le
  have hErr := s.err.toNat_le
  have hResv := s.resv.toNat_le
  have hHit := s.hit.toNat_le
  have hStrict := s.strict.toNat_le
  have hLen := s.len.isLt
  have hCode := s.code.isLt
  refine ⟨status_getLsbD s 0 _ (by omega) ?_, status_getLsbD s 1 _ (by omega) ?_, status_getLsbD s 2 _ (by omega) ?_,
    status_extractLsb s 5 3 _ (by omega) (by omega) ?_,
    status_getLsbD s 6 _ (by omega) ?_, status_getLsbD s 7 _ (by omega) ?_, status_getLsbD s 8 _ (by omega) ?_,
    status_getLsbD s 9 _ (by omega) ?_, status_getLsbD s 10 _ (by omega) ?_, status_getLsbD s 11 _ (by omega) ?_,
    status_getLsbD s 12 _ (by omega) ?_, status_getLsbD s 13 _ (by omega) ?_, status_getLsbD s 14 _ (by omega) ?_,
    status_getLsbD s 15 false (by omega) ?_,
    status_extractLsb s 23 16 _ (by omega) (by omega) ?_, status_extractLsb s 31 24 _ (by omega) (by omega) ?_, rfl⟩
  all_goals
    simp only [statusNat, Bool.toNat_false]
    omega

end Sys2Proof.Machine
end

section
/-! PROOFS, family 10_state. What the operations do with the port, ERR, CFG.STRICT, RES and FERR (R35 to R39). -/

namespace Sys2Proof.Machine

/-! ## STRICT, ERR and the port -/

/-- PUSH neither reads nor writes `CFG.STRICT`, `ERR` or the port. -/
theorem pushed_with_strict_err_port (b : Byte) (s : State) (v e : Bool) (p : List HostInput) :
    pushed b { s with strict := v, err := e, port := p } =
      { pushed b s with strict := v, err := e, port := p } := by
  unfold pushed
  dsimp only
  split <;> rfl

/-- The effects act alike whatever waits on the port. -/
theorem Effect.apply_setPort (e : Effect) (p : List HostInput) (s : State) :
    e.apply (setPort p s) = setPort p (e.apply s) := by
  cases e with
  | received b =>
    have h := pushed_with_strict_err_port b s s.strict s.err p
    simpa [Effect.apply, setPort] using h
  | same | refused | opened | closed | missed | malformed | delivered | operand | mode | reset => rfl

/-- No effect writes the port. -/
theorem Effect.apply_port (e : Effect) (s : State) : (e.apply s).port = s.port := by
  cases e with
  | received b => exact pushed_port b s
  | same | refused | opened | closed | missed | malformed | delivered | operand | mode | reset => rfl

/-- Which effect an operation has does not depend on the port. -/
theorem effectOf_setPort (i : Instr) (p : List HostInput) (s : State) : effectOf i (setPort p s) = effectOf i s := by
  cases i <;> rfl

/-- Which effect an operation has does not depend on `ERR`. -/
theorem effectOf_with_err (i : Instr) (s : State) (x : Bool) : effectOf i { s with err := x } = effectOf i s := by
  cases i <;> rfl

/-- From states that differ in `ERR` alone an effect leaves states that differ at most in `ERR`. -/
theorem Effect.apply_with_err (e : Effect) (s : State) (x : Bool) :
    ∃ y, e.apply { s with err := x } = { e.apply s with err := y } := by
  cases e with
  | received b =>
    have h := pushed_with_strict_err_port b s s.strict x s.port
    exact ⟨x, by simpa [Effect.apply] using h⟩
  | refused => exact ⟨true, rfl⟩
  | reset => exact ⟨false, rfl⟩
  | same | opened | closed | missed | malformed | delivered | operand | mode => exact ⟨x, rfl⟩

/-- `ERR` is cleared by RST alone. -/
theorem Effect.apply_err (i : Instr) (e : Effect) (s : State) (hi : i ≠ .rst) (hs : s.err = true)
    (hg : e.Guard i s) : (e.apply s).err = true := by
  cases e with
  | received b => exact (pushed_err b s).trans hs
  | refused => rfl
  | reset => exact absurd hg hi
  | same | opened | closed | missed | malformed | delivered | operand | mode => exact hs

/-- No instruction changes what waits on the port. -/
theorem exec_port (i : Instr) (s t : State) (ht : exec i s = .next t) : t.port = s.port := by
  have h := keptByEffects_of_predicate (A := fun _ => True) (P := fun u => u.port = s.port)
    fun _ e u _ hu _ => (e.apply_port u).trans hu
  exact (h.keeps_exec trivial (fun _ => trivial) trivial i trivial s s t t ⟨rfl, rfl⟩ ht ht).2

/-- Settles O12: the runs with one port and with another, effect by effect. -/
theorem operationsNeverTouchThePort : Obligations.OperationsNeverTouchThePort := by
  intro i s t p ht
  have hother : KeptByEffects (fun _ => True) fun s u => u = setPort p s :=
    { effectOf_eq := by rintro i s _ - rfl; exact effectOf_setPort i p s
      apply := by rintro _ e s _ - rfl -; exact e.apply_setPort p s }
  obtain ⟨u, hu⟩ := exec_has_next i (setPort p s)
  have hut := hother.keeps_exec trivial (fun _ => trivial) trivial i trivial s _ t u rfl ht hu
  exact ⟨exec_port i s t ht, hut ▸ hu⟩

/-- Settles O38: `ERR` effect by effect, in one run and in two that differ in it. -/
theorem errIsStickyAndLocksNothing : Obligations.ErrIsStickyAndLocksNothing := by
  intro i s t x ht
  have hother : KeptByEffects (fun _ => True) fun s u => ∃ y, u = { s with err := y } :=
    { effectOf_eq := by rintro i s _ - ⟨y, rfl⟩; exact effectOf_with_err i s y
      apply := by rintro _ e s _ - ⟨y, rfl⟩ -; exact e.apply_with_err s y }
  obtain ⟨u, hu⟩ := exec_has_next i { s with err := x }
  obtain ⟨y, rfl⟩ := hother.keeps_exec trivial (fun _ => trivial) trivial i trivial s _ t u ⟨x, rfl⟩ ht hu
  exact ⟨fun hi hs => exec_keeps_of_ne_rst Effect.apply_err i hi s t hs ht, _, hu, rfl⟩

/-- Settles O39: outside EOR, WRC and RST neither the choice of the effect nor its writes involve `CFG.STRICT`. -/
theorem strictIsReadByEorAlone : Obligations.StrictIsReadByEorAlone := by
  intro i s t v heor hrst hwrc hrow ht
  rw [exec_eq_apply i hrow] at ht ⊢
  cases ht
  have heffect : effectOf i { s with strict := v } = effectOf i s := by
    cases i with
    | eor => exact absurd rfl heor
    | _ => rfl
  have hg := effectOf_guard i s
  rw [heffect]
  cases he : effectOf i s with
  | received b =>
    have h := pushed_with_strict_err_port b s v s.err s.port
    exact ⟨pushed_strict b s, congrArg _ (by simpa [Effect.apply] using h)⟩
  | closed r => rw [he] at hg; exact absurd hg.1 heor
  | mode w => rw [he] at hg; exact absurd hg (hwrc w)
  | reset => rw [he] at hg; exact absurd hg hrst
  | same | refused | opened | missed | malformed | delivered | operand => exact ⟨rfl, rfl⟩

/-! ## RES and FERR -/

/-- An effect keeps `RES` or delivers. -/
theorem Effect.apply_res (i : Instr) (e : Effect) (s : State) (hi : i ≠ .rst) (hg : e.Guard i s) :
    (e.apply s).res = s.res ∨ ∃ v, e = .delivered v := by
  cases e with
  | received b => exact .inl (pushed_res b s)
  | delivered v => exact .inr ⟨v, rfl⟩
  | reset => exact absurd hg hi
  | same | refused | opened | closed | missed | malformed | operand | mode => exact .inl rfl

/-- The operations a read is made of (R86). -/
def isReadOp (i : Instr) : Prop := i = .sor ∨ (∃ b, i = .push b) ∨ i = .eor

/-- A read delivers nothing: it is a run of SOR, PUSH and EOR. -/
theorem feed_res (raw : List Byte) (s t : State) (ht : feed raw s = .next t) : t.res = s.res := by
  have h := keptByEffects_of_predicate (A := isReadOp) (P := fun u => u.res = s.res) <| by
    intro i e u hi hu hg
    have hrst : i ≠ .rst := by rintro rfl; simp [isReadOp] at hi
    obtain hres | ⟨v, rfl⟩ := e.apply_res i u hrst hg
    · exact hres.trans hu
    · obtain ⟨w, off, rfl⟩ | ⟨off, rfl⟩ | ⟨w, rfl⟩ := hg <;> simp [isReadOp] at hi
  exact (h.keeps_feed (.inl rfl) (fun b => .inr (.inl ⟨b, rfl⟩)) (.inr (.inr rfl)) raw s s t t ⟨rfl, rfl⟩ ht ht).2

/-- Settles O37: a frame row is a read, and an operation of the command word keeps `RES` or delivers. -/
theorem resultIsRetainedUnlessDelivered : Obligations.ResultIsRetainedUnlessDelivered := by
  intro i s t ht hrst
  cases hrow : isFrameRow i with
  | true =>
    obtain ⟨raw, hraw⟩ := exec_eq_feed_of_isFrameRow i hrow
    exact .inl (feed_res raw s t ((hraw s).symm.trans ht))
  | false =>
    rw [exec_eq_apply i hrow] at ht
    cases ht
    have hg := effectOf_guard i s
    obtain hres | ⟨v, hv⟩ := (effectOf i s).apply_res i s hrst hg
    · exact .inl hres
    · rw [hv] at hg ⊢
      exact .inr ⟨rfl, rfl, hg⟩

/-- Phase DONE with an available frame in which a field has failed (R37). -/
def FieldFailed (s : State) : Prop := s.winOpen = false ∧ s.done = true ∧ s.valid = true ∧ s.ferr = true

/-- The operations between one EOR and the next SOR leave `FERR` set: none of their effects in phase DONE clears it. -/
theorem exec_keeps_fieldFailed (i : Instr) (hi : keepsWindow i) (s t : State) (hs : FieldFailed s)
    (ht : exec i s = .next t) : FieldFailed t := by
  obtain ⟨hsor, hrst, hrow⟩ := hi
  obtain ⟨hopen, hdone, hvalid, hferr⟩ := hs
  rw [exec_eq_apply i hrow] at ht
  cases ht
  have hg := effectOf_guard i s
  cases he : effectOf i s with
  | opened => rw [he] at hg; exact absurd hg hsor
  | reset => rw [he] at hg; exact absurd hg hrst
  | received b => rw [he] at hg; exact absurd hg.2 (by simp [hopen])
  | closed r => rw [he] at hg; exact absurd hg.2.1 (by simp [hopen])
  | malformed => exact ⟨hopen, hdone, hvalid, rfl⟩
  | same | refused | missed | delivered | operand | mode => exact ⟨hopen, hdone, hvalid, hferr⟩

/-- A predicate each operation of a sequence keeps holds after the sequence. -/
theorem runAll_keeps {A : Instr → Prop} {P : State → Prop}
    (hkeep : ∀ i, A i → ∀ s t, P s → exec i s = .next t → P t) (is : List Instr) (his : ∀ i ∈ is, A i) (s : State)
    (hs : P s) : ∃ t, runAll is s = .next t ∧ P t := by
  induction is generalizing s with
  | nil => exact ⟨s, rfl, hs⟩
  | cons i is ih =>
    obtain ⟨u, hu⟩ := exec_has_next i s
    obtain ⟨hi, his⟩ := List.forall_mem_cons.mp his
    obtain ⟨t, ht, hP⟩ := ih his u (hkeep i hi s u hs hu)
    exact ⟨t, by rw [runAll, hu, andThen_next, ht], hP⟩

/-- After a failed field every DEC fails, and changes nothing but `HIT`. -/
theorem exec_dec_of_fieldFailed (w : Width) (off : Byte) (s : State) (h : FieldFailed s) :
    exec (.dec w off) s = .next { s with hit := false } := by
  obtain ⟨-, hdone, hvalid, hferr⟩ := h
  calc exec (.dec w off) s = .next (raiseMalformed s) := by
        rw [exec_eq_apply _ rfl]; simp [effectOf, Effect.apply, hdone, hvalid, hferr]
    _ = .next { s with hit := false } := by rw [raiseMalformed, ← hferr]

/-- Settles O35: a failed field stays failed along the sequence, and a DEC after it fails. -/
theorem fieldErrorIsStickyWithinTheFrame : Obligations.FieldErrorIsStickyWithinTheFrame := by
  intro is s hopen hdone hvalid hferr his
  obtain ⟨t, ht, hfailed⟩ := runAll_keeps exec_keeps_fieldFailed is his s ⟨hopen, hdone, hvalid, hferr⟩
  exact ⟨t, ht, hfailed.2.2.2, fun w off => exec_dec_of_fieldFailed w off t hfailed⟩

end Sys2Proof.Machine
end

section
/-! PROOFS, family 10_state. PUSH field by field, the running checksum, and the invariants of R46 under every
effect, every step and every run. -/

namespace Sys2Proof.Machine

/-! ## What PUSH counts and writes -/

/-- PUSH field by field: each field of the window is written at its own position of the frame (R58, R122). -/
theorem pushed_eq (b : Byte) (s : State) :
    pushed b s = { s with
      cnt := if s.cnt.toNat < s.len.toNat + 6 then s.cnt + 1 else s.cnt
      hbad :=
        if s.cnt.toNat = 0 then decide (b ≠ Config.dollar)
        else if s.cnt.toNat = 1 then s.hbad || decide (b ≠ Config.letterM)
        else if s.cnt.toNat = 2 then
          s.hbad || (decide (b ≠ Config.requestChar) && decide (b ≠ Config.responseChar))
        else s.hbad
      dir := if s.cnt.toNat = 2 then decide (b = Config.responseChar) else s.dir
      len := if s.cnt.toNat = 3 then b else s.len
      code := if s.cnt.toNat = 4 then b else s.code
      pay := if 5 ≤ s.cnt.toNat ∧ s.cnt.toNat < s.len.toNat + 5 then Memory.set s.pay (s.cnt.toNat - 5) b else s.pay
      xacc :=
        if s.cnt.toNat = 3 then b
        else if 4 ≤ s.cnt.toNat ∧ s.cnt.toNat < s.len.toNat + 5 then s.xacc ^^^ b
        else s.xacc
      csb := if 5 ≤ s.cnt.toNat ∧ s.cnt.toNat = s.len.toNat + 5 then b else s.csb
      cseen := if 5 ≤ s.cnt.toNat ∧ s.cnt.toNat = s.len.toNat + 5 then true else s.cseen
      trail := if s.len.toNat + 5 < s.cnt.toNat then true else s.trail } := by
  unfold pushed
  rcases framePosition_cases s.cnt.toNat s.len.toNat with ⟨hc, e⟩ | ⟨hc, e⟩ | ⟨hc, e⟩ | ⟨hc, e⟩ | ⟨hc, e⟩ |
    ⟨_, hc, e⟩ | ⟨_, hc, e⟩ | ⟨hc, e⟩ <;>
    rw [e] <;> simp (disch := omega) only [if_pos, if_neg, advance]

/-- PUSH counts up to the end of the frame and not beyond (R23). In every state: the counter cannot wrap, since the
last position counted is `LEN + 5`. -/
theorem pushed_cnt_toNat (b : Byte) (s : State) :
    (pushed b s).cnt.toNat = if s.cnt.toNat < s.len.toNat + 6 then s.cnt.toNat + 1 else s.cnt.toNat := by
  have hlen := s.len.isLt
  rw [pushed_eq]
  dsimp only
  split_ifs with h
  · rw [BitVec.toNat_add, Nat.mod_eq_of_lt (by simp; omega)]
    rfl
  · rfl

/-- Settles O21: the count of PUSH, and `LEN + 6 ≤ 261`. -/
theorem pushCountsToTheEndOfTheFrame : Obligations.PushCountsToTheEndOfTheFrame := by
  intro b s hinv hopen
  have hlen := s.len.isLt
  have hmax := hinv.cnt_max
  have hcnt := pushed_cnt_toNat b s
  refine ⟨pushed b s, by rw [exec_eq_apply (.push b) rfl, effectOf, if_pos hopen]; rfl, ?_, hcnt⟩
  rw [hcnt]
  split_ifs <;> omega

/-! ## The running checksum -/

theorem xorBytes_concat (bs : List Byte) (b : Byte) : xorBytes (bs ++ [b]) = xorBytes bs ^^^ b := by
  induction bs with
  | nil => simp [xorBytes]
  | cons c bs ih => simp [xorBytes, ih, BitVec.xor_assoc]

theorem checksum_nil (len code : Byte) : checksum len code [] = len ^^^ code := by simp [checksum, xorBytes]

theorem checksum_concat (len code : Byte) (bs : List Byte) (b : Byte) :
    checksum len code (bs ++ [b]) = checksum len code bs ^^^ b := by
  simp [checksum, xorBytes_concat, BitVec.xor_assoc]

/-- The byte at an offset after a write of one byte. -/
theorem payByte_of_set (s t : State) (k j : Nat) (b : Byte) (h : t.pay = Memory.set s.pay k b) :
    payByte t j = if j = k then b else payByte s j := by
  unfold payByte
  rw [h, Memory.read?_set]
  split_ifs <;> rfl

/-- One payload byte more: the window's bytes are those before it, then the byte. -/
theorem writtenBytes_of_set (s t : State) (b : Byte) (hpay : t.pay = Memory.set s.pay (written s) b)
    (hw : written t = written s + 1) : writtenBytes t = writtenBytes s ++ [b] := by
  unfold writtenBytes
  rw [hw, List.range_succ, List.map_append]
  congr 1
  · refine List.map_congr_left fun j hj => ?_
    rw [payByte_of_set s t _ j b hpay, if_neg (List.mem_range.mp hj).ne]
  · simp [payByte_of_set s t _ _ b hpay]

/-- The window's bytes depend on the buffer and on how many were written. -/
theorem writtenBytes_congr (s t : State) (hpay : t.pay = s.pay) (hw : written t = written s) :
    writtenBytes t = writtenBytes s := by
  unfold writtenBytes payByte
  rw [hw, hpay]

/-! ## The invariants: reset and the effects -/

/-- Settles O50: at reset nothing has been received. -/
theorem resetMeetsTheInvariants : Obligations.ResetMeetsTheInvariants := by
  constructor
  case pay_wf => exact reset_pay_wf
  all_goals simp [written, coveredXor]

/-- `STRICT`, the operand registers, `ERR` and the port do not occur in the invariants. -/
theorem Inv.with_strict_opb_err_port {s : State} (h : Inv s) (v : Bool) (o : Vector Byte 4) (e : Bool)
    (p : List HostInput) : Inv { s with strict := v, opb := o, err := e, port := p } :=
  { h with }

theorem Inv.openWindow {s : State} (h : Inv s) : Inv (openWindow s) := by
  constructor
  case resv_zero => exact h.resv_zero
  case pay_wf => exact h.pay_wf
  all_goals simp [written, coveredXor]

theorem Inv.noUpdate {s : State} (h : Inv s) : Inv (noUpdate s) :=
  { h with hit_resv := by simp }

theorem Inv.raiseMalformed {s : State} (h : Inv s) (hdone : s.done = true) (hvalid : s.valid = true) :
    Inv (raiseMalformed s) :=
  { h with
    idle_clean := by simp [hdone]
    ferr_valid := fun _ => hvalid
    hit_resv := by simp }

theorem Inv.deliver {s : State} (h : Inv s) (v : Word32) : Inv (deliver v s) :=
  { h with
    hit_resv := by simp
    resv_zero := by simp }

/-- The frame is available exactly when none of the verdict's conditions holds (R33, R123). -/
theorem verdict_eq_none_iff (s : State) : verdict s = .none ↔
    5 ≤ s.cnt.toNat ∧ s.hbad = false ∧ s.len.toNat + 5 ≤ s.cnt.toNat ∧
      (s.strict = true → s.cseen = true ∧ s.csb = s.xacc) := by
  unfold verdict
  split_ifs <;> simp_all <;> omega

/-- With a window open there is no verdict and no failed field (R46 items 1, 7, 11). -/
theorem Inv.of_open {s : State} (h : Inv s) (hopen : s.winOpen = true) :
    s.done = false ∧ s.valid = false ∧ s.reason = .none ∧ s.csok = false ∧ s.ferr = false := by
  have hdone : s.done = false := by
    cases hd : s.done with
    | false => rfl
    | true => exact absurd ⟨hopen, hd⟩ h.one_phase
  obtain ⟨hvalid, hreason, hcsok⟩ := h.no_verdict hdone
  refine ⟨hdone, hvalid, hreason, hcsok, ?_⟩
  cases hf : s.ferr with
  | false => rfl
  | true => exact absurd (h.ferr_valid hf) (by simp [hvalid])

/-- EOR's verdict agrees with the window it closes. -/
theorem Inv.closed {s : State} (h : Inv s) (hopen : s.winOpen = true) :
    Inv ((Effect.closed (verdict s)).apply s) := by
  obtain ⟨-, -, -, -, hferr⟩ := h.of_open hopen
  exact
  { h with
    one_phase := by simp [Effect.apply]
    idle_clean := by simp [Effect.apply]
    valid_verdict := by
      intro hv
      have hnone : verdict s = .none := of_decide_eq_true hv
      obtain ⟨hcnt, hbad, hlen, -⟩ := (verdict_eq_none_iff s).mp hnone
      exact ⟨rfl, hnone, hbad, hcnt, hlen⟩
    invalid_reason := fun _ hv => of_decide_eq_false hv
    no_verdict := by simp [Effect.apply]
    csok_means := by
      intro hc
      simp only [Effect.apply, closeWindow_csok, Bool.and_eq_true, decide_eq_true_eq] at hc
      exact ⟨rfl, hc⟩
    ferr_valid := by simp [Effect.apply, hferr] }

/-! ## The invariants: PUSH -/

theorem pushed_len (b : Byte) (s : State) : (pushed b s).len = if s.cnt.toNat = 3 then b else s.len := by
  rw [pushed_eq]

theorem pushed_code (b : Byte) (s : State) : (pushed b s).code = if s.cnt.toNat = 4 then b else s.code := by
  rw [pushed_eq]

theorem pushed_pay (b : Byte) (s : State) : (pushed b s).pay =
    if 5 ≤ s.cnt.toNat ∧ s.cnt.toNat < s.len.toNat + 5 then Memory.set s.pay (s.cnt.toNat - 5) b else s.pay := by
  rw [pushed_eq]

theorem pushed_xacc (b : Byte) (s : State) : (pushed b s).xacc =
    if s.cnt.toNat = 3 then b
    else if 4 ≤ s.cnt.toNat ∧ s.cnt.toNat < s.len.toNat + 5 then s.xacc ^^^ b
    else s.xacc := by
  rw [pushed_eq]

theorem pushed_csb (b : Byte) (s : State) : (pushed b s).csb =
    if 5 ≤ s.cnt.toNat ∧ s.cnt.toNat = s.len.toNat + 5 then b else s.csb := by
  rw [pushed_eq]

theorem pushed_cseen (b : Byte) (s : State) : (pushed b s).cseen =
    if 5 ≤ s.cnt.toNat ∧ s.cnt.toNat = s.len.toNat + 5 then true else s.cseen := by
  rw [pushed_eq]

theorem pushed_trail (b : Byte) (s : State) : (pushed b s).trail =
    if s.len.toNat + 5 < s.cnt.toNat then true else s.trail := by
  rw [pushed_eq]

theorem pushed_dir (b : Byte) (s : State) : (pushed b s).dir =
    if s.cnt.toNat = 2 then decide (b = Config.responseChar) else s.dir := by
  rw [pushed_eq]

/-- A PUSH adds one to the window's bytes at the payload positions and none elsewhere. -/
theorem written_pushed (b : Byte) (s : State) : written (pushed b s) =
    if 5 ≤ s.cnt.toNat ∧ s.cnt.toNat < s.len.toNat + 5 then written s + 1 else written s := by
  unfold written
  rw [pushed_cnt_toNat, pushed_len]
  split_ifs <;> omega

/-- The payload offset of a PUSH is the number of bytes the window has written. -/
theorem written_of_payload_position (s : State) (h : s.cnt.toNat < s.len.toNat + 5) :
    written s = s.cnt.toNat - 5 := by
  unfold written
  omega

/-- The window's bytes after a PUSH. -/
theorem writtenBytes_pushed (b : Byte) (s : State) : writtenBytes (pushed b s) =
    if 5 ≤ s.cnt.toNat ∧ s.cnt.toNat < s.len.toNat + 5 then writtenBytes s ++ [b] else writtenBytes s := by
  have hw := written_pushed b s
  have hpay := pushed_pay b s
  split_ifs at hw hpay ⊢ with h
  · rw [← written_of_payload_position s h.2] at hpay
    exact writtenBytes_of_set s _ b hpay hw
  · exact writtenBytes_congr s _ hpay hw

/-- The covered bytes' XOR follows each PUSH as the accumulator does: the length byte starts it, the code and each
payload byte enter it, and nothing after them (R29). -/
theorem coveredXor_pushed (b : Byte) (s : State) : coveredXor (pushed b s) =
    if s.cnt.toNat = 3 then b
    else if 4 ≤ s.cnt.toNat ∧ s.cnt.toNat < s.len.toNat + 5 then coveredXor s ^^^ b
    else coveredXor s := by
  have hcnt := pushed_cnt_toNat b s
  unfold coveredXor
  rw [pushed_len, pushed_code, writtenBytes_pushed]
  obtain hi | hi | hi | hi | hi : s.cnt.toNat < 3 ∨ s.cnt.toNat = 3 ∨ s.cnt.toNat = 4 ∨
      (5 ≤ s.cnt.toNat ∧ s.cnt.toNat < s.len.toNat + 5) ∨ (5 ≤ s.cnt.toNat ∧ s.len.toNat + 5 ≤ s.cnt.toNat) := by
    omega
  · rw [if_pos (by omega)] at hcnt
    simp (disch := omega) only [if_pos, if_neg]
  · rw [if_pos (by omega)] at hcnt
    simp (disch := omega) only [if_pos, if_neg]
  · rw [if_pos (by omega)] at hcnt
    have hnone : writtenBytes s = [] := by simp [writtenBytes, written, hi]
    simp (disch := omega) only [if_pos, if_neg, hnone, checksum_nil]
  · rw [if_pos (by omega)] at hcnt
    simp (disch := omega) only [if_pos, if_neg, checksum_concat]
  · have hge : 5 ≤ (pushed b s).cnt.toNat := by split_ifs at hcnt <;> omega
    simp (disch := omega) only [if_pos, if_neg]

/-- PUSH in an open window keeps the invariants, each item by the positions that write its fields. -/
theorem Inv.pushed {s : State} (h : Inv s) (hopen : s.winOpen = true) (b : Byte) : Inv (pushed b s) := by
  obtain ⟨hdone, hvalid, hreason, hcsok, hferr⟩ := h.of_open hopen
  have hlen := s.len.isLt
  have hmax := h.cnt_max
  have hframe := h.cnt_frame
  have hzero : s.cnt.toNat < 4 → s.len.toNat = 0 := fun hc => by simp [h.len_zero hc]
  have hbefore : ∀ n ≤ 6, (Machine.pushed b s).cnt.toNat < n → s.cnt.toNat + 1 < n := by
    intro n hn hc
    rw [pushed_cnt_toNat] at hc
    split_ifs at hc <;> omega
  constructor
  case one_phase => simp [hdone]
  case cnt_max => rw [pushed_cnt_toNat]; split_ifs <;> omega
  case cnt_frame => rw [pushed_cnt_toNat, pushed_len]; split_ifs <;> omega
  case len_zero =>
    intro hc
    have := hbefore 4 (by omega) hc
    rw [pushed_len, if_neg (by omega)]
    exact h.len_zero (by omega)
  case code_zero =>
    intro hc
    have := hbefore 5 (by omega) hc
    rw [pushed_code, if_neg (by omega)]
    exact h.code_zero (by omega)
  case cseen_iff =>
    rw [pushed_cnt_toNat, pushed_len, pushed_cseen]
    split_ifs <;> simp only [h.cseen_iff, true_iff] <;> omega
  case csb_zero =>
    rw [pushed_csb, pushed_cseen]
    split_ifs
    · simp
    · exact h.csb_zero
  case trail_cseen =>
    rw [pushed_trail, pushed_cseen]
    split_ifs with htrail hcheck hcheck
    · exact fun _ => rfl
    · exact fun _ => h.cseen_iff.mpr (by omega)
    · exact fun _ => rfl
    · exact h.trail_cseen
  case hbad_zero =>
    intro hc
    have := hbefore 1 (by omega) (by omega)
    omega
  case dir_zero =>
    intro hc
    have := hbefore 3 (by omega) hc
    rw [pushed_dir, if_neg (by omega)]
    exact h.dir_zero (by omega)
  case idle_clean => simp [hopen]
  case valid_verdict => simp [hvalid]
  case invalid_reason => simp [hdone]
  case no_verdict => simp [hvalid, hreason, hcsok]
  case xacc_covers => rw [pushed_xacc, coveredXor_pushed, h.xacc_covers]
  case pay_written =>
    rw [written_pushed, pushed_pay]
    split_ifs with hpay
    · intro k hk
      rw [Memory.read?_set, ← written_of_payload_position s hpay.2]
      split_ifs with hlast
      · rfl
      · exact h.pay_written k (by omega)
    · exact h.pay_written
  case csok_means => simp [hcsok]
  case ferr_valid => simp [hferr]
  case hit_resv => simpa using h.hit_resv
  case resv_zero => simpa using h.resv_zero
  case pay_wf =>
    rw [pushed_pay]
    split_ifs
    · exact Memory.wf_set _ _ _ h.pay_wf (by simp only [Config.pmax]; omega)
    · exact h.pay_wf

/-- Every effect that occurs keeps the invariants. -/
theorem Inv.apply {s : State} (h : Inv s) (i : Instr) (e : Effect) (hg : e.Guard i s) : Inv (e.apply s) := by
  cases e with
  | same => exact h
  | refused => exact h.with_strict_opb_err_port s.strict s.opb true s.port
  | opened => exact h.openWindow
  | received b => exact h.pushed hg.2 b
  | closed r =>
    obtain ⟨-, hopen, rfl⟩ := hg
    exact h.closed hopen
  | missed => exact h.noUpdate
  | malformed => exact h.raiseMalformed hg.1 hg.2
  | delivered v => exact h.deliver v
  | operand k b => exact h.with_strict_opb_err_port s.strict _ s.err s.port
  | mode v => exact h.with_strict_opb_err_port v s.opb s.err s.port
  | reset => exact resetMeetsTheInvariants.with_strict_opb_err_port _ _ _ s.port

theorem Inv.setPort {s : State} (h : Inv s) (p : List HostInput) : Inv (setPort p s) :=
  h.with_strict_opb_err_port s.strict s.opb s.err p

/-- Settles O51: every effect keeps the invariants, and the port, which the step reads, does not occur in them. -/
theorem everyStepKeepsTheInvariants : Obligations.EveryStepKeepsTheInvariants := by
  intro s t h ht
  have hkept := keptByEffects_of_predicate (A := fun _ => True) (P := Inv) fun i e s _ hs hg => hs.apply i e hg
  refine (hkept.keeps_step ?_ ?_ s s t t ⟨rfl, h⟩ ht ht).2
  · rintro s _ ⟨rfl, -⟩; rfl
  · rintro p s _ ⟨rfl, hs⟩; exact ⟨rfl, hs.setPort p⟩

/-- Settles O52, by induction on the run. -/
theorem reachableStatesMeetTheInvariants : Obligations.ReachableStatesMeetTheInvariants := by
  intro s hs
  induction hs with
  | reset => exact resetMeetsTheInvariants
  | step s t _ hstep ih => exact everyStepKeepsTheInvariants s t ih hstep
  | issue s input _ ih => exact ih.setPort _

/-- Settles O23: the verdict of a strict EOR asks for the checksum byte and its equality with the accumulator, which
covers the length, the code and all `LEN` payload bytes. -/
theorem strictAvailableFrameHasTheRightChecksum : Obligations.StrictAvailableFrameHasTheRightChecksum := by
  intro s t h hstrict hopen ht hvalid
  rw [exec_eq_apply .eor rfl, effectOf, if_pos hopen] at ht
  cases ht
  obtain ⟨hcnt, -, hlen, hsum⟩ := (verdict_eq_none_iff s).mp (of_decide_eq_true hvalid)
  obtain ⟨hseen, hcsb⟩ := hsum hstrict
  have hwritten : written s = s.len.toNat := by unfold written; omega
  refine ⟨by simp [Effect.apply, hseen, hcsb], ?_⟩
  calc s.csb = coveredXor s := hcsb.trans h.xacc_covers
    _ = checksum s.len s.code (writtenBytes s) := by
      unfold coveredXor
      rw [if_neg (by omega), if_neg (by omega)]
    _ = checksum s.len s.code ((List.range s.len.toNat).map (payByte s)) := by rw [writtenBytes, hwritten]

end Sys2Proof.Machine
end

section
/-! PROOFS, family 10_state. The bytes of PAY that the window has not written are never seen (R28, R45, R47). -/

namespace Sys2Proof.Machine

/-! ## Bytes of PAY outside the window -/

/-- PUSH's writes outside `PAY` do not depend on the buffer. -/
theorem pushed_with_pay (b : Byte) (s : State) (m : Memory) :
    pushed b { s with pay := m } = { pushed b s with pay := (pushed b { s with pay := m }).pay } := by
  unfold pushed
  dsimp only
  split <;> rfl

/-- What a payload byte reads as after a PUSH: the new byte at the offset of its position, else the byte before. -/
theorem payByte_pushed (b : Byte) (s : State) (k : Nat) : payByte (pushed b s) k =
    if (5 ≤ s.cnt.toNat ∧ s.cnt.toNat < s.len.toNat + 5) ∧ k = s.cnt.toNat - 5 then b else payByte s k := by
  have hpay := pushed_pay b s
  split_ifs at hpay with hpos
  · rw [payByte_of_set s _ _ k b hpay]; simp [hpos]
  · simp [payByte, hpay, hpos]

/-- PUSH writes the same byte at the same offset of two alike windows, and no other byte comes into the window. -/
theorem Alike.pushed {s t : State} (h : Alike s t) (b : Byte) : Alike (pushed b s) (pushed b t) := by
  obtain ⟨ht, hbytes⟩ := h
  have hcnt : t.cnt = s.cnt := by rw [ht]
  have hlen : t.len = s.len := by rw [ht]
  refine ⟨?_, fun k hk => ?_⟩
  · rw [ht]; exact pushed_with_pay b s t.pay
  · rw [payByte_pushed, payByte_pushed, hcnt, hlen]
    split_ifs with hlast
    · rfl
    · rw [written_pushed] at hk
      refine hbytes k ?_
      split_ifs at hk with hpos
      · have := written_of_payload_position s hpos.2
        have : k ≠ s.cnt.toNat - 5 := fun hk => hlast ⟨hpos, hk⟩
        omega
      · exact hk

/-- Two alike states stay alike under every effect. -/
theorem Alike.apply {s t : State} (h : Alike s t) (e : Effect) : Alike (e.apply s) (e.apply t) := by
  cases e with
  | received b => exact h.pushed b
  | opened | reset =>
    obtain ⟨ht, -⟩ := h
    rw [ht]
    exact ⟨rfl, by simp [written, Effect.apply]⟩
  | same | refused | closed | missed | malformed | delivered | operand | mode =>
    obtain ⟨ht, hbytes⟩ := h
    rw [ht]
    exact ⟨rfl, hbytes⟩

/-- In an available frame the window has written all `LEN` bytes of the payload (R46 item 6). -/
theorem Inv.written_of_valid {s : State} (h : Inv s) (hvalid : s.valid = true) : written s = s.len.toNat := by
  obtain ⟨-, -, -, -, hlen⟩ := h.valid_verdict hvalid
  unfold written
  omega

/-- An operation has the same effect in two alike states: DEC and RDB read `PAY` inside the window's bytes only. -/
theorem Alike.effectOf_eq {s t : State} (h : Alike s t) (hinv : Inv s) (i : Instr) :
    effectOf i t = effectOf i s := by
  obtain ⟨ht, hbytes⟩ := h
  have hread : s.valid = true → ∀ k, k < s.len.toNat → payByte t k = payByte s k := fun hvalid k hk =>
    (hbytes k (by rwa [hinv.written_of_valid hvalid])).symm
  have hfields : t.done = s.done ∧ t.valid = s.valid ∧ t.ferr = s.ferr ∧ t.len = s.len := by
    rw [ht]; exact ⟨rfl, rfl, rfl, rfl⟩
  obtain ⟨hdone, hvalid, hferr, hlen⟩ := hfields
  cases i with
  | dec w off =>
    simp only [effectOf, hdone, hvalid, hferr, hlen]
    split_ifs with _ hv hbad
    · rfl
    · rfl
    · rfl
    · have hsame : ∀ j ∈ List.range w.bytes, payByte t (off.toNat + j) = payByte s (off.toNat + j) := by
        intro j hj
        have := List.mem_range.mp hj
        exact hread (by simpa using hv) _ (by omega)
      rw [List.map_congr_left hsame]
  | rdb off =>
    simp only [effectOf, hdone, hvalid, hlen]
    split_ifs with _ hin
    · rfl
    · rw [hread hin.1 _ hin.2]
    · rfl
  | _ => rw [ht]; rfl

/-- The outputs show nothing of the buffer (R45). -/
theorem Alike.outputs_eq {s t : State} (h : Alike s t) : outputs s = outputs t := by
  obtain ⟨ht, -⟩ := h
  rw [ht]
  rfl

/-- Settles O53: the two states have the same effect, which keeps them alike, and alike states have equal outputs. -/
theorem stalePayloadBytesAreUnobservable : Obligations.StalePayloadBytesAreUnobservable := by
  intro s t s' t' hinv halike hs ht
  have hkept : KeptByEffects (fun _ => True) fun s t => Inv s ∧ Alike s t :=
    { effectOf_eq := fun i s t _ h => h.2.effectOf_eq h.1 i
      apply := fun i e s t _ h hg => ⟨h.1.apply i e hg, h.2.apply e⟩ }
  have hport : ∀ s t, Inv s ∧ Alike s t → t.port = s.port := fun s t h => by rw [h.2.1]
  have hset : ∀ p s t, Inv s ∧ Alike s t → Inv (setPort p s) ∧ Alike (setPort p s) (setPort p t) := by
    rintro p s t ⟨hs, ht, hbytes⟩
    rw [ht]
    exact ⟨hs.setPort p, rfl, hbytes⟩
  obtain ⟨-, halike'⟩ := hkept.keeps_step hport hset s t s' t' ⟨hinv, halike⟩ hs ht
  exact ⟨halike.outputs_eq, halike', halike'.outputs_eq⟩

end Sys2Proof.Machine
end

section
/-! PROOFS, family 20_memory. Reading the payload writes the result registers and nothing of the frame (R56, R57). -/

namespace Sys2Proof.Machine

/-! ## The result registers are read by no operation -/

/-- `RES`, `RESV` and `HIT` decide no operation: they are outputs (R35, R36). -/
theorem effectOf_with_result (i : Instr) (s : State) (res : Word32) (resv hit : Bool) :
    effectOf i { s with res := res, resv := resv, hit := hit } = effectOf i s := by
  cases i <;> rfl

/-- A DEC delivers a field that lies in an available frame with no failed field (R150). -/
theorem effectOf_dec_of_fits (w : Width) (off : Byte) (s : State) (hdone : s.done = true) (hvalid : s.valid = true)
    (hferr : s.ferr = false) (hfits : off.toNat + w.bytes ≤ s.len.toNat) : effectOf (.dec w off) s =
      .delivered (sext32 (decodeSigned ((List.range w.bytes).map fun j => payByte s (off.toNat + j)))) := by
  simp [effectOf, hdone, hvalid, hferr, not_lt.mpr hfits]

/-- An RDB delivers a byte that lies in an available frame (R151). -/
theorem effectOf_rdb_of_lt (off : Byte) (s : State) (hdone : s.done = true) (hvalid : s.valid = true)
    (hlt : off.toNat < s.len.toNat) : effectOf (.rdb off) s = .delivered (zext32 (payByte s off.toNat)) := by
  simp [effectOf, hdone, hvalid, hlt]

/-- In phase DONE a DEC finds no frame, or fails on an available frame, or delivers (R150). -/
theorem effectOf_dec_of_done (w : Width) (off : Byte) (s : State) (hdone : s.done = true) :
    (effectOf (.dec w off) s = .missed ∧ s.valid = false) ∨ effectOf (.dec w off) s = .malformed ∨
      ∃ v, effectOf (.dec w off) s = .delivered v := by
  cases hvalid : s.valid with
  | false => exact .inl ⟨by simp [effectOf, hdone, hvalid], rfl⟩
  | true =>
    by_cases hfail : s.ferr = true ∨ s.len.toNat < off.toNat + w.bytes
    · exact .inr (.inl (by simp [effectOf, hdone, hvalid, hfail]))
    · obtain ⟨hferr, hfits⟩ := not_or.mp hfail
      exact .inr (.inr ⟨_, effectOf_dec_of_fits w off s hdone hvalid (eq_false_of_ne_true hferr) (not_lt.mp hfits)⟩)

/-- In phase DONE an RDB delivers a byte or nothing (R151). -/
theorem effectOf_rdb_of_done (off : Byte) (s : State) (hdone : s.done = true) :
    effectOf (.rdb off) s = .missed ∨ ∃ v, effectOf (.rdb off) s = .delivered v := by
  by_cases hbyte : s.valid = true ∧ off.toNat < s.len.toNat
  · exact .inr ⟨_, effectOf_rdb_of_lt off s hdone hbyte.1 hbyte.2⟩
  · exact .inl (by simp [effectOf, hdone, hbyte])

/-- An operation that wrote only the result registers, by an effect that writes the same again, repeats itself. -/
theorem exec_repeats {i : Instr} {s t : State} (hrow : isFrameRow i = false)
    (ht : t = { s with res := t.res, resv := t.resv, hit := t.hit }) (happly : (effectOf i s).apply t = t) :
    exec i t = .next t := by
  have heffect : effectOf i t = effectOf i s := by rw [ht, effectOf_with_result]
  rw [exec_eq_apply i hrow, heffect, happly]

/-- With `FERR` set on an available frame every DEC fails, and changes nothing but `HIT` (R37). -/
theorem exec_dec_of_ferr (w : Width) (off : Byte) (s : State) (hdone : s.done = true) (hvalid : s.valid = true)
    (hferr : s.ferr = true) : exec (.dec w off) s = .next { s with hit := false } := by
  have heffect : effectOf (.dec w off) s = .malformed := by simp [effectOf, hdone, hvalid, hferr]
  rw [exec_eq_apply _ rfl, heffect, Effect.apply, raiseMalformed, ← hferr]

/-- Settles O33, by the effects a DEC and an RDB can have in phase DONE. -/
theorem readingThePayloadHasNoSideEffectOnIt : Obligations.ReadingThePayloadHasNoSideEffectOnIt := by
  refine fun s t hdone => ⟨fun w off ht => ?dec, fun off ht => ?rdb⟩
  case dec =>
    rw [exec_eq_apply _ rfl] at ht
    cases ht
    obtain ⟨he, hvalid⟩ | he | ⟨v, he⟩ := effectOf_dec_of_done w off s hdone <;> rw [he]
    · exact ⟨rfl, nofun, fun h => absurd h (by simp [hvalid])⟩
    · exact ⟨rfl, nofun, fun hvalid _ => ⟨rfl, fun w' off' => exec_dec_of_ferr w' off' _ hdone hvalid rfl⟩⟩
    · exact ⟨rfl, fun _ => exec_repeats rfl rfl (by rw [he]; rfl), fun _ => nofun⟩
  case rdb =>
    rw [exec_eq_apply _ rfl] at ht
    cases ht
    obtain he | ⟨v, he⟩ := effectOf_rdb_of_done off s hdone <;> rw [he] <;>
      exact ⟨rfl, exec_repeats rfl rfl (by rw [he]; rfl)⟩

/-! ## The frame while DONE = 1 -/

/-- `t` shows the same closed frame as `s`: what DEC and RDB read, the verdict, and a closed window. -/
def SameClosedFrame (s t : State) : Prop :=
  t.pay = s.pay ∧ t.len = s.len ∧ t.code = s.code ∧ t.valid = s.valid ∧ t.reason = s.reason ∧ t.csok = s.csok ∧
    t.cnt = s.cnt ∧ t.done = true ∧ t.winOpen = false

/-- An operation between one EOR and the next SOR leaves the closed frame: with the window closed, PUSH and EOR are
refused (R56). -/
theorem exec_keeps_sameClosedFrame (s : State) (i : Instr) (hi : keepsWindow i) (t u : State)
    (ht : SameClosedFrame s t) (hu : exec i t = .next u) : SameClosedFrame s u := by
  obtain ⟨hsor, hrst, hrow⟩ := hi
  have ⟨_, _, _, _, _, _, _, _, hopen⟩ := ht
  rw [exec_eq_apply i hrow] at hu
  cases hu
  have hg := effectOf_guard i t
  cases he : effectOf i t with
  | opened => rw [he] at hg; exact absurd hg hsor
  | reset => rw [he] at hg; exact absurd hg hrst
  | received b => rw [he] at hg; exact absurd hg.2 (by simp [hopen])
  | closed r => rw [he] at hg; exact absurd hg.2.1 (by simp [hopen])
  | same | refused | missed | malformed | delivered | operand | mode => exact ht

/-- Settles O36, by induction on the sequence. -/
theorem frameIsFrozenWhileDone : Obligations.FrameIsFrozenWhileDone :=
  fun is s hopen hdone his =>
    runAll_keeps (exec_keeps_sameClosedFrame s) is his s ⟨rfl, rfl, rfl, rfl, rfl, rfl, rfl, hdone, hopen⟩

end Sys2Proof.Machine
end

section
/-! PROOFS, family 20_memory. Little-endian byte lists at both ends (R51, R100), and what accesses of different widths
see of the same bytes (R52). -/

namespace Sys2Proof.Machine

/-! ## The unsigned value -/

/-- One more byte is a factor of 256. -/
theorem two_pow_bits_succ {R : Type} [CommSemiring R] (n : Nat) : (2 : R) ^ (8 * (n + 1)) = 256 * 2 ^ (8 * n) := by
  ring

theorem unsignedLE_cons (b : Byte) (bs : List Byte) : unsignedLE (b :: bs) = b.toNat + 256 * unsignedLE bs := rfl

/-- The last byte is the most significant one (R51). -/
theorem unsignedLE_concat (bs : List Byte) (b : Byte) :
    unsignedLE (bs ++ [b]) = unsignedLE bs + 2 ^ (8 * bs.length) * b.toNat := by
  induction bs with
  | nil => simp [unsignedLE]
  | cons a as ih =>
    rw [List.cons_append, unsignedLE_cons, ih, unsignedLE_cons, List.length_cons, two_pow_bits_succ]
    ring

theorem unsignedLE_lt (bs : List Byte) : unsignedLE bs < 2 ^ (8 * bs.length) := by
  induction bs with
  | nil => simp [unsignedLE]
  | cons b bs ih =>
    have hb := b.isLt
    rw [unsignedLE_cons, List.length_cons, two_pow_bits_succ]
    omega

/-! ## The signed value -/

/-- The sign is bit 7 of the last byte (R100). -/
theorem signBit_concat (bs : List Byte) (b : Byte) : signBit (bs ++ [b]) = b.msb := by
  rw [signBit, List.getLastD_concat, BitVec.msb_eq_getLsbD_last]

/-- The last byte counts with its own signed value, the others unsigned (R100). -/
theorem decodeSigned_concat (bs : List Byte) (b : Byte) :
    decodeSigned (bs ++ [b]) = unsignedLE bs + 2 ^ (8 * bs.length) * b.toInt := by
  rw [decodeSigned, signBit_concat, unsignedLE_concat, BitVec.toInt_eq_msb_cond, List.length_append,
    List.length_singleton, two_pow_bits_succ]
  split <;> push_cast <;> ring

/-- The sign of the decoded integer is bit 7 of the last byte (R52). -/
theorem decodeSigned_concat_neg_iff (bs : List Byte) (b : Byte) : decodeSigned (bs ++ [b]) < 0 ↔ b.msb = true := by
  have hlt : (unsignedLE bs : Int) < 2 ^ (8 * bs.length) := by exact_mod_cast unsignedLE_lt bs
  rw [decodeSigned_concat, BitVec.msb_eq_toInt, decide_eq_true_iff]
  refine ⟨fun h => ?_, fun h => ?_⟩
  · exact neg_of_mul_neg_right (a := 2 ^ (8 * bs.length)) (by omega) (by positivity)
  · have := mul_le_mul_of_nonneg_left (Int.le_sub_one_of_lt h) (show (0 : Int) ≤ 2 ^ (8 * bs.length) by positivity)
    omega

/-- Half of the range is negative (R102 law 2). -/
theorem decodeSigned_concat_range (bs : List Byte) (b : Byte) :
    -(128 * 2 ^ (8 * bs.length)) ≤ decodeSigned (bs ++ [b]) ∧ decodeSigned (bs ++ [b]) < 128 * 2 ^ (8 * bs.length) := by
  have hlt : (unsignedLE bs : Int) < 2 ^ (8 * bs.length) := by exact_mod_cast unsignedLE_lt bs
  have hpos : (0 : Int) ≤ 2 ^ (8 * bs.length) := by positivity
  have hlo : -128 ≤ b.toInt := b.le_toInt
  have hhi : b.toInt ≤ 127 := Int.le_of_lt_add_one b.toInt_lt
  have := mul_le_mul_of_nonneg_left hlo hpos
  have := mul_le_mul_of_nonneg_left hhi hpos
  rw [decodeSigned_concat]
  omega

/-- The first byte is the value modulo 256 (R52). -/
theorem decodeSigned_cons_emod (b : Byte) (bs : List Byte) : decodeSigned (b :: bs) % 256 = b.toNat := by
  have hb := b.isLt
  rw [decodeSigned, unsignedLE_cons, List.length_cons, two_pow_bits_succ]
  split <;> push_cast <;> omega

/-! ## The register -/

/-- The low byte of the register is the integer modulo 256 (R8). -/
theorem sext32_toNat_mod (v : Int) : ((sext32 v).toNat % 256 : Nat) = v % 256 := by
  rw [sext32, BitVec.toNat_ofInt]
  omega

/-- Bit 31 of the register is the sign of an integer that fits it (R106). -/
theorem sext32_getLsbD_last (v : Int) (hlo : -2 ^ 31 ≤ v) (hhi : v < 2 ^ 31) :
    (sext32 v).getLsbD 31 = decide (v < 0) := by
  have h : (sext32 v).toInt = v := BitVec.toInt_ofInt_eq_self (by decide) hlo hhi
  calc (sext32 v).getLsbD 31 = (sext32 v).msb := (BitVec.msb_eq_getLsbD_last _).symm
    _ = decide (v < 0) := by rw [BitVec.msb_eq_toInt, h]

/-! ## Fields of the payload -/

/-- A field has 1 to 4 bytes, so a first and a last one (R55). -/
theorem Width.bytes_eq_succ (w : Width) : ∃ n ≤ 3, w.bytes = n + 1 := by
  cases w <;> exact ⟨_, by decide, rfl⟩

/-- The low byte of a delivered field is the field's first byte. -/
theorem sext32_field_low (f : Nat → Byte) (n : Nat) :
    (zext32 (f 0)).toNat = (sext32 (decodeSigned ((List.range (n + 1)).map f))).toNat % 256 := by
  have hz : (zext32 (f 0)).toNat = (f 0).toNat := BitVec.toNat_setWidth_of_le (by decide)
  have hv := sext32_toNat_mod (decodeSigned ((List.range (n + 1)).map f))
  rw [List.range_succ_eq_map, List.map_cons, decodeSigned_cons_emod] at *
  omega

/-- The sign of a delivered field of `n + 1 ≤ 4` bytes is bit 7 of its last byte. -/
theorem sext32_field_sign (f : Nat → Byte) (n : Nat) (hn : n ≤ 3) :
    (sext32 (decodeSigned ((List.range (n + 1)).map f))).getLsbD 31 = (f n).getLsbD 7 := by
  have hpow : (2 : Int) ^ (8 * n) ≤ 2 ^ 24 := pow_le_pow_right₀ one_le_two (by omega)
  have hrange := decodeSigned_concat_range ((List.range n).map f) (f n)
  have hneg := decodeSigned_concat_neg_iff ((List.range n).map f) (f n)
  rw [List.length_map, List.length_range] at hrange
  rw [List.range_succ, List.map_append, List.map_singleton, sext32_getLsbD_last _ (by omega) (by omega), Bool.eq_iff_iff,
    decide_eq_true_iff, hneg, BitVec.msb_eq_getLsbD_last]

/-- Settles O44: the views as sums of bytes, and the delivered values by their first and last byte. -/
theorem widthsSeeTheSameBytes : Obligations.WidthsSeeTheSameBytes := by
  refine fun s k => ⟨by simp [unsignedLE, List.range_succ], ?_, fun w off hdone hvalid hferr hfits => ?_⟩
  · simp [unsignedLE, List.range_succ, add_assoc]; ring
  · obtain ⟨n, hn, hw⟩ := Width.bytes_eq_succ w
    refine ⟨_, _, exec_eq_apply _ rfl s, exec_eq_apply _ rfl s, ?_⟩
    rw [effectOf_dec_of_fits w off s hdone hvalid hferr hfits, effectOf_rdb_of_lt off s hdone hvalid (by omega), hw]
    exact ⟨sext32_field_low (fun j => payByte s (off.toNat + j)) n, sext32_field_sign _ n hn⟩

end Sys2Proof.Machine
end

section
/-! PROOFS, family 30_encoding. The command words (R80, R81, R83, R85): which words each operand form accepts, so that
a word decodes to an operation exactly when it is the operation's encoding; which words are illegal, field by field; and
the rows of the opcode table. -/

namespace Sys2Proof.Machine

/-! ## The operand forms of a command word -/

theorem plainWord_eq_ok_iff (w : BitVec 4) (imm : Byte) (i j : Instr) :
    plainWord w imm i = .ok j ↔ w = 0 ∧ imm = 0 ∧ j = i := by
  unfold plainWord
  split_ifs with h
  · rw [Except.ok.injEq, eq_comm, and_iff_right h.1, and_iff_right h.2]
  · exact ⟨nofun, fun ⟨hw, himm, _⟩ => absurd ⟨hw, himm⟩ h⟩

theorem immWord_eq_ok_iff (w : BitVec 4) (i j : Instr) : immWord w i = .ok j ↔ w = 0 ∧ j = i := by
  unfold immWord
  split_ifs with h
  · rw [Except.ok.injEq, eq_comm, and_iff_right h]
  · exact ⟨nofun, fun ⟨hw, _⟩ => absurd hw h⟩

/-- The width a field names is the one whose number it is (R81). -/
theorem widthOf_eq_some_iff (w : BitVec 4) (k : Width) : widthOf w = some k ↔ w = widthField k := by
  revert w
  cases k <;> decide

theorem decWord_eq_ok_iff (w : BitVec 4) (imm : Byte) (j : Instr) :
    decWord w imm = .ok j ↔ ∃ k, w = widthField k ∧ j = .dec k imm := by
  simp only [← widthOf_eq_some_iff, decWord]
  cases widthOf w <;> simp [eq_comm]

theorem decoWord_eq_ok_iff (w : BitVec 4) (imm : Byte) (j : Instr) :
    decoWord w imm = .ok j ↔ imm = 0 ∧ ∃ k, w = widthField k ∧ j = .deco k := by
  simp only [← widthOf_eq_some_iff, decoWord]
  split_ifs with h
  · cases widthOf w <;> simp [eq_comm, h]
  · exact ⟨nofun, fun ⟨himm, _⟩ => absurd himm h⟩

theorem ldoWord_eq_ok_iff (w : BitVec 4) (imm : Byte) (j : Instr) :
    ldoWord w imm = .ok j ↔ ∃ k : Fin 4, w = BitVec.ofNat 4 k.val ∧ j = .ldo k imm := by
  have hindex : ∀ k : Fin 4, (BitVec.ofNat 4 k.val).toNat = k.val := by decide
  unfold ldoWord
  split_ifs with h
  · refine ⟨fun hj => ⟨⟨w.toNat, h⟩, by simp, by cases hj; rfl⟩, ?_⟩
    rintro ⟨k, rfl, rfl⟩
    simp only [hindex]
  · refine ⟨nofun, ?_⟩
    rintro ⟨k, rfl, -⟩
    exact absurd ((hindex k).trans_lt k.isLt) h

theorem wrcWord_eq_ok_iff (w : BitVec 4) (imm : Byte) (j : Instr) :
    wrcWord w imm = .ok j ↔ w = 0 ∧ ∃ v : Bool, imm = (if v then 1 else 0) ∧ j = .wrc v := by
  unfold wrcWord
  split_ifs with hw h0 h1
  · simp [hw, h0, eq_comm]
  · simp [hw, h1, eq_comm]
  · simpa [hw] using ⟨fun h => absurd h h0, fun h => absurd h h1⟩
  · exact ⟨nofun, fun h => absurd h.1 hw⟩

/-! ## Decoding and encoding a command word -/

/-- A word that decodes is the encoding of its operation: the operand form of its opcode fixes every bit (R80, R83). -/
theorem encode_of_decodeWord (c : CmdWord) (i : Instr) (h : decodeWord c = .ok i) : encode i = .word c := by
  have hop : ∀ n, (opField c).toNat = n → opField c = BitVec.ofNat 4 n := by rintro n rfl; simp
  rw [← Laws.cmdWord_fields c]
  unfold decodeWord at h
  dsimp only at h
  split at h
  case h_1 e | h_2 e | h_4 e | h_10 e =>
    obtain ⟨hw, himm, rfl⟩ := (plainWord_eq_ok_iff _ _ _ _).mp h
    rw [hop _ e, hw, himm]; rfl
  case h_3 e | h_6 e =>
    obtain ⟨hw, rfl⟩ := (immWord_eq_ok_iff _ _ _).mp h
    rw [hop _ e, hw]; rfl
  case h_5 e =>
    obtain ⟨k, hw, rfl⟩ := (decWord_eq_ok_iff _ _ _).mp h
    rw [hop _ e, hw]; rfl
  case h_7 e =>
    obtain ⟨k, hw, rfl⟩ := (ldoWord_eq_ok_iff _ _ _).mp h
    rw [hop _ e, hw]; rfl
  case h_8 e =>
    obtain ⟨himm, k, hw, rfl⟩ := (decoWord_eq_ok_iff _ _ _).mp h
    rw [hop _ e, hw, himm]; rfl
  case h_9 e =>
    obtain ⟨hw, v, himm, rfl⟩ := (wrcWord_eq_ok_iff _ _ _).mp h
    rw [hop _ e, hw, himm]; rfl
  case h_11 => cases h

/-- A word decodes to an operation exactly when it is the operation's encoding (R80, R85). -/
theorem decodeWord_eq_ok_iff (c : CmdWord) (i : Instr) : decodeWord c = .ok i ↔ encode i = .word c := by
  refine ⟨encode_of_decodeWord c i, fun h => ?_⟩
  cases i with
  | nop | sor | push | eor | dec | rdb | ldo | deco | wrc | rst =>
    cases h
    simp [decodeWord, Laws.opField_cmdWord, Laws.wField_cmdWord, Laws.immField_cmdWord, plainWord_eq_ok_iff,
      immWord_eq_ok_iff, decWord_eq_ok_iff, decoWord_eq_ok_iff, ldoWord_eq_ok_iff, wrcWord_eq_ok_iff]
  | _ => cases h

/-- No frame row is encoded as a word. -/
theorem isFrameRow_of_encode_word (i : Instr) (c : CmdWord) (h : encode i = .word c) : isFrameRow i = false := by
  cases i with
  | nop | sor | push | eor | dec | rdb | ldo | deco | wrc | rst => rfl
  | _ => cases h

/-- The operations of the command word are well formed as they stand (R80). -/
theorem wellFormed_of_not_isFrameRow (i : Instr) (h : isFrameRow i = false) : i.wellFormed = true := by
  cases i with
  | nop | sor | push | eor | dec | rdb | ldo | deco | wrc | rst => rfl
  | _ => cases h

/-- An operation of the command word has a word, which decodes to it. -/
theorem exists_word_of_not_isFrameRow (i : Instr) (h : isFrameRow i = false) :
    ∃ c, encode i = .word c ∧ decodeWord c = .ok i := by
  obtain ⟨c, hc⟩ : ∃ c, encode i = .word c := by
    cases i with
    | nop | sor | push | eor | dec | rdb | ldo | deco | wrc | rst => exact ⟨_, rfl⟩
    | _ => cases h
  exact ⟨c, hc, (decodeWord_eq_ok_iff c i).mpr hc⟩

/-! ## The illegal words -/

theorem opField_toNat (c : CmdWord) : (opField c).toNat = c.toNat / 4096 := by
  have hc := c.isLt
  simp [opField, Nat.shiftRight_eq_div_pow]
  omega

theorem wField_toNat (c : CmdWord) : (wField c).toNat = c.toNat / 256 % 16 := by
  simp [wField, Nat.shiftRight_eq_div_pow]

theorem immField_toNat (c : CmdWord) : (immField c).toNat = c.toNat % 256 := by
  simp [immField]

theorem plainWord_isOk_iff (w : BitVec 4) (imm : Byte) (i : Instr) :
    (∃ j, plainWord w imm i = .ok j) ↔ w.toNat = 0 ∧ imm.toNat = 0 := by
  simp [plainWord_eq_ok_iff, BitVec.toNat_eq]

theorem immWord_isOk_iff (w : BitVec 4) (i : Instr) : (∃ j, immWord w i = .ok j) ↔ w.toNat = 0 := by
  simp [immWord_eq_ok_iff, BitVec.toNat_eq]

/-- A width's number is 1 to 4, and each of these is a width's (R55, R81). -/
theorem exists_eq_widthField_iff (w : BitVec 4) : (∃ k, w = widthField k) ↔ 1 ≤ w.toNat ∧ w.toNat ≤ 4 := by
  have hnum : ∀ k, 1 ≤ (widthField k).toNat ∧ (widthField k).toNat ≤ 4 := by rintro ⟨⟩ <;> decide
  refine ⟨?_, fun h => ?_⟩
  · rintro ⟨k, rfl⟩; exact hnum k
  · obtain rfl | rfl | rfl | rfl : w = 1 ∨ w = 2 ∨ w = 3 ∨ w = 4 := by bv_omega
    exacts [⟨.w1, rfl⟩, ⟨.w2, rfl⟩, ⟨.w3, rfl⟩, ⟨.w4, rfl⟩]

theorem decWord_isOk_iff (w : BitVec 4) (imm : Byte) :
    (∃ j, decWord w imm = .ok j) ↔ 1 ≤ w.toNat ∧ w.toNat ≤ 4 := by
  simp [decWord_eq_ok_iff, ← exists_eq_widthField_iff, exists_comm (α := Instr)]

theorem decoWord_isOk_iff (w : BitVec 4) (imm : Byte) :
    (∃ j, decoWord w imm = .ok j) ↔ imm.toNat = 0 ∧ 1 ≤ w.toNat ∧ w.toNat ≤ 4 := by
  simp [decoWord_eq_ok_iff, ← exists_eq_widthField_iff, BitVec.toNat_eq]

theorem ldoWord_isOk_iff (w : BitVec 4) (imm : Byte) : (∃ j, ldoWord w imm = .ok j) ↔ w.toNat < 4 := by
  unfold ldoWord
  split_ifs with h <;> simp [h]

theorem wrcWord_isOk_iff (w : BitVec 4) (imm : Byte) :
    (∃ j, wrcWord w imm = .ok j) ↔ w.toNat = 0 ∧ imm.toNat / 2 = 0 := by
  have himm : imm.toNat / 2 = 0 ↔ imm = 0 ∨ imm = 1 := by bv_omega
  simp [wrcWord_eq_ok_iff, exists_or, and_or_left, himm, BitVec.toNat_eq]

/-- R83's condition on the numbers of a word's three fields. -/
def IllegalFields (op w imm : Nat) : Prop :=
  (9 ≤ op ∧ op ≤ 14) ∨ ((op = 0 ∨ op = 1 ∨ op = 3 ∨ op = 15) ∧ (w ≠ 0 ∨ imm ≠ 0)) ∨
    ((op = 2 ∨ op = 5 ∨ op = 8) ∧ w ≠ 0) ∨ ((op = 4 ∨ op = 7) ∧ (w = 0 ∨ 5 ≤ w)) ∨ (op = 7 ∧ imm ≠ 0) ∨
    (op = 6 ∧ 4 ≤ w) ∨ (op = 8 ∧ imm / 2 ≠ 0)

/-- A word decodes exactly when R83 does not call it illegal: opcode by opcode, its operand form. -/
theorem decodeWord_isOk_iff (c : CmdWord) :
    (∃ i, decodeWord c = .ok i) ↔ ¬IllegalFields (opField c).toNat (wField c).toNat (immField c).toNat := by
  have hlt := (opField c).isLt
  unfold decodeWord IllegalFields
  dsimp only
  split
  case h_11 =>
    simp only [imp_false] at *
    simp only [reduceCtorEq, exists_false, false_iff, not_not]
    omega
  all_goals
    simp only [plainWord_isOk_iff, immWord_isOk_iff, decWord_isOk_iff, ldoWord_isOk_iff, decoWord_isOk_iff,
      wrcWord_isOk_iff]
    omega

/-- A word that does not decode is illegal. -/
theorem illegalFields_of_decodeWord_error (c : CmdWord) (e : DecodeError) (h : decodeWord c = .error e) :
    IllegalFields (opField c).toNat (wField c).toNat (immField c).toNat := by
  by_contra hlegal
  obtain ⟨i, hi⟩ := (decodeWord_isOk_iff c).mpr hlegal
  cases h.symm.trans hi

/-- Settles O5: an illegal word does not decode and is refused, a legal one decodes and is run. -/
theorem illegalWordOnlySetsErr : Obligations.IllegalWordOnlySetsErr := by
  intro c s rest
  have hok := decodeWord_isOk_iff c
  rw [opField_toNat, wField_toNat, immField_toNat] at hok
  refine ⟨fun hillegal => ?_, fun hlegal => ?_⟩
  · cases hdec : decodeWord c with
    | ok i => exact absurd hillegal (hok.mp ⟨i, hdec⟩)
    | error e => exact step_of_decode_error _ (.word c) rest e rfl hdec
  · obtain ⟨i, hi⟩ := hok.mpr hlegal
    exact ⟨i, hi, isFrameRow_of_encode_word i c (encode_of_decodeWord c i hi),
      step_of_decode_ok _ (.word c) rest i rfl hi⟩

/-! ## The rows of the opcode table -/

/-- A masked word matches a pattern exactly when each of its three fields does. -/
theorem and_eq_iff_fields (c mask pattern : CmdWord) : c &&& mask = pattern ↔
    opField c &&& opField mask = opField pattern ∧ wField c &&& wField mask = wField pattern ∧
      immField c &&& immField mask = immField pattern := by
  have hand : opField (c &&& mask) = opField c &&& opField mask ∧ wField (c &&& mask) = wField c &&& wField mask ∧
      immField (c &&& mask) = immField c &&& immField mask :=
    ⟨BitVec.extractLsb_and .., BitVec.extractLsb_and .., BitVec.extractLsb_and ..⟩
  obtain ⟨hop, hw, himm⟩ := hand
  rw [← hop, ← hw, ← himm]
  refine ⟨by rintro rfl; exact ⟨rfl, rfl, rfl⟩, fun ⟨h1, h2, h3⟩ => ?_⟩
  rw [← Laws.cmdWord_fields (c &&& mask), h1, h2, h3, Laws.cmdWord_fields]

/-- The masks of the table keep a field of 4 bits whole, or all of it but an operand index. -/
theorem nibble_and_mask (w : BitVec 4) : w &&& 15#4 = w ∧ (w &&& 12#4 = 0#4 ↔ w.toNat < 4) := by
  revert w
  decide

/-- The masks of the table keep the immediate whole, or all of it but WRC's bit. -/
theorem byte_and_mask (imm : Byte) : imm &&& 255#8 = imm ∧ (imm &&& 254#8 = 0#8 ↔ imm.toNat / 2 = 0) := by
  revert imm
  decide

/-- No illegal word selects a row of R80: row by row, what the mask, the pattern and the width rule say of the three
fields. -/
theorem not_illegalFields_of_selects (c : CmdWord) (r : CmdRow) (hr : r ∈ cmdRows) (hsel : r.selects c = true) :
    ¬IllegalFields (opField c).toNat (wField c).toNat (immField c).toNat := by
  rw [CmdRow.selects, Bool.and_eq_true, beq_iff_eq, and_eq_iff_fields] at hsel
  obtain ⟨⟨hop, hw, himm⟩, hrule⟩ := hsel
  simp only [cmdRows, List.mem_cons, List.not_mem_nil, or_false] at hr
  unfold IllegalFields
  obtain rfl | rfl | rfl | rfl | rfl | rfl | rfl | rfl | rfl | rfl := hr
  all_goals
    simp only [WidthRule.holds, Bool.and_eq_true, decide_eq_true_eq] at hrule
    generalize opField c = op, wField c = w, immField c = imm at *
    simp [opField, wField, immField, nibble_and_mask, byte_and_mask] at hop hw himm
    bv_omega

/-- Settles O3, row by row: an operation's word matches its row's mask and pattern, and a frame row's head the row of
its direction and code. -/
theorem encodingSelectsOnlyItsOwnRow : Obligations.EncodingSelectsOnlyItsOwnRow
  | .nop => Laws.RowSelected.nop
  | .sor => Laws.RowSelected.sor
  | .push b => Laws.RowSelected.push b
  | .eor => Laws.RowSelected.eor
  | .dec w off => Laws.RowSelected.dec w off
  | .rdb off => Laws.RowSelected.rdb off
  | .ldo i b => Laws.RowSelected.ldo i b
  | .deco w => Laws.RowSelected.deco w
  | .wrc strict => Laws.RowSelected.wrc strict
  | .rst => Laws.RowSelected.rst
  | .respRawImu len payload csum => Laws.RowSelected.respRawImu len payload csum
  | .respMotor len payload csum => Laws.RowSelected.respMotor len payload csum
  | .respRc len payload csum => Laws.RowSelected.respRc len payload csum
  | .respAttitude len payload csum => Laws.RowSelected.respAttitude len payload csum
  | .respAltitude len payload csum => Laws.RowSelected.respAltitude len payload csum
  | .respSetRawRc len payload csum => Laws.RowSelected.respSetRawRc len payload csum
  | .respOther len code payload csum => Laws.RowSelected.respOther len code payload csum
  | .reqRawImu len payload csum => Laws.RowSelected.reqRawImu len payload csum
  | .reqMotor len payload csum => Laws.RowSelected.reqMotor len payload csum
  | .reqRc len payload csum => Laws.RowSelected.reqRc len payload csum
  | .reqAttitude len payload csum => Laws.RowSelected.reqAttitude len payload csum
  | .reqAltitude len payload csum => Laws.RowSelected.reqAltitude len payload csum
  | .cmdSetRawRc len payload csum => Laws.RowSelected.cmdSetRawRc len payload csum
  | .reqOther len code payload csum => Laws.RowSelected.reqOther len code payload csum

/-- Settles O4: a word that decodes is the encoding of its operation, which selects the operation's row alone; a word
that does not is illegal and selects none. -/
theorem decoderFollowsTheWordRows : Obligations.DecoderFollowsTheWordRows := by
  intro c
  cases hdec : decodeWord c with
  | ok i =>
    have henc := encode_of_decodeWord c i hdec
    have hwf := wellFormed_of_not_isFrameRow i (isFrameRow_of_encode_word i c henc)
    rw [← henc]
    exact encodingSelectsOnlyItsOwnRow i hwf
  | error e =>
    have hillegal := illegalFields_of_decodeWord_error c e hdec
    simp only [rowsOf, List.map_eq_nil_iff, List.filter_eq_nil_iff]
    exact fun r hr hsel => not_illegalFields_of_selects c r hr hsel hillegal

/-- Settles O6: closed words and frames. -/
theorem writtenWordsDecodeAsTheSpecSays : Obligations.WrittenWordsDecodeAsTheSpecSays :=
  ⟨rfl, rfl, rfl, rfl, rfl, rfl, rfl, rfl, rfl, rfl, rfl, rfl⟩

end Sys2Proof.Machine
end

section
/-! PROOFS, family 30_encoding. The frames (R70, R77, R87): a read decodes exactly when it is the encoding of a
well-formed frame row; and with the command words, that decoding and encoding are each other's inverse. -/

namespace Sys2Proof.Machine

/-! ## The body and the rows of a frame -/

/-- A body splits exactly when it is `LEN` payload bytes and one checksum byte (R70, R77). -/
theorem splitBody_eq_ok_iff (len : Byte) (body payload : List Byte) (csum : Byte) :
    splitBody len body = .ok (payload, csum) ↔ payload.length = len.toNat ∧ body = payload ++ [csum] := by
  unfold splitBody
  constructor
  · intro h
    split_ifs at h with hcut
    have hbody := List.take_append_drop len.toNat body
    split at h
    case h_2 c hdrop =>
      cases h
      exact ⟨List.length_take_of_le (by omega), by rw [← hdrop, hbody]⟩
    all_goals cases h
  · rintro ⟨hlen, rfl⟩
    simp [← hlen]

/-- A frame's row, from its body. -/
theorem splitBody_map_eq_ok_iff (len : Byte) (body : List Byte) (row : List Byte × Byte → Instr) (i : Instr) :
    (splitBody len body).map row = .ok i ↔
      ∃ payload csum, payloadFits len payload = true ∧ body = payload ++ [csum] ∧ i = row (payload, csum) := by
  simp only [payloadFits, beq_iff_eq, ← and_assoc, ← splitBody_eq_ok_iff]
  cases splitBody len body with
  | ok p => simp [Except.map, Prod.ext_iff, eq_comm]
  | error e => simp [Except.map]

theorem encode_responseRow (len code : Byte) (payload : List Byte) (csum : Byte) :
    encode (responseRow len code payload csum) = .read (responseBytes len code payload csum) := by
  unfold responseRow
  split_ifs <;> subst_vars <;> rfl

theorem encode_requestRow (len code : Byte) (payload : List Byte) (csum : Byte) :
    encode (requestRow len code payload csum) = .read (requestBytes len code payload csum) := by
  unfold requestRow
  split_ifs <;> subst_vars <;> rfl

theorem wellFormed_responseRow (len code : Byte) (payload : List Byte) (csum : Byte) :
    (responseRow len code payload csum).wellFormed = payloadFits len payload := by
  unfold responseRow
  split_ifs <;> simp_all [Instr.wellFormed, isOtherCode, Config.namedCodes]

theorem wellFormed_requestRow (len code : Byte) (payload : List Byte) (csum : Byte) :
    (requestRow len code payload csum).wellFormed = payloadFits len payload := by
  unfold requestRow
  split_ifs <;> simp_all [Instr.wellFormed, isOtherCode, Config.namedCodes]

/-- A well-formed frame row is the row its direction and code select (R87). -/
theorem eq_row_of_wellFormed (i : Instr) (hrow : isFrameRow i = true) (hwf : i.wellFormed = true) :
    ∃ len code payload csum, i = responseRow len code payload csum ∨ i = requestRow len code payload csum := by
  cases i with
  | nop | sor | push | eor | dec | rdb | ldo | deco | wrc | rst => cases hrow
  | respOther len code payload csum =>
    obtain ⟨hcode, -⟩ := (Bool.and_eq_true _ _).mp hwf
    exact ⟨_, _, _, _, .inl (Laws.responseRow_other len code payload csum hcode).symm⟩
  | reqOther len code payload csum =>
    obtain ⟨hcode, -⟩ := (Bool.and_eq_true _ _).mp hwf
    exact ⟨_, _, _, _, .inr (Laws.requestRow_other len code payload csum hcode).symm⟩
  | respRawImu len payload csum => exact ⟨len, Config.codeRawImu, payload, csum, .inl rfl⟩
  | respMotor len payload csum => exact ⟨len, Config.codeMotor, payload, csum, .inl rfl⟩
  | respRc len payload csum => exact ⟨len, Config.codeRc, payload, csum, .inl rfl⟩
  | respAttitude len payload csum => exact ⟨len, Config.codeAttitude, payload, csum, .inl rfl⟩
  | respAltitude len payload csum => exact ⟨len, Config.codeAltitude, payload, csum, .inl rfl⟩
  | respSetRawRc len payload csum => exact ⟨len, Config.codeSetRawRc, payload, csum, .inl rfl⟩
  | reqRawImu len payload csum => exact ⟨len, Config.codeRawImu, payload, csum, .inr rfl⟩
  | reqMotor len payload csum => exact ⟨len, Config.codeMotor, payload, csum, .inr rfl⟩
  | reqRc len payload csum => exact ⟨len, Config.codeRc, payload, csum, .inr rfl⟩
  | reqAttitude len payload csum => exact ⟨len, Config.codeAttitude, payload, csum, .inr rfl⟩
  | reqAltitude len payload csum => exact ⟨len, Config.codeAltitude, payload, csum, .inr rfl⟩
  | cmdSetRawRc len payload csum => exact ⟨len, Config.codeSetRawRc, payload, csum, .inr rfl⟩

/-! ## Decoding and encoding a frame -/

/-- A frame of R70 decodes to the row its direction and code select. -/
theorem decodeFrame_frameBytes (len code : Byte) (payload : List Byte) (csum : Byte)
    (hfits : payloadFits len payload = true) :
    decodeFrame (responseBytes len code payload csum) = .ok (responseRow len code payload csum) ∧
      decodeFrame (requestBytes len code payload csum) = .ok (requestRow len code payload csum) :=
  ⟨(splitBody_map_eq_ok_iff ..).mpr ⟨payload, csum, hfits, rfl, rfl⟩,
    (splitBody_map_eq_ok_iff ..).mpr ⟨payload, csum, hfits, rfl, rfl⟩⟩

/-- A read that decodes is a frame of R70 and decodes to the row its direction and code select. -/
theorem eq_frame_of_decodeFrame (raw : List Byte) (i : Instr) (h : decodeFrame raw = .ok i) :
    ∃ len code payload csum, payloadFits len payload = true ∧
      (raw = responseBytes len code payload csum ∧ i = responseRow len code payload csum ∨
        raw = requestBytes len code payload csum ∧ i = requestRow len code payload csum) := by
  unfold decodeFrame at h
  split at h
  case h_2 => cases h
  case h_1 b0 b1 b2 len code body =>
    split_ifs at h with hmark hresp hreq <;> obtain ⟨rfl, rfl⟩ := hmark
    · obtain ⟨payload, csum, hfits, rfl, rfl⟩ := (splitBody_map_eq_ok_iff _ _ _ _).mp h
      exact ⟨len, code, payload, csum, hfits, .inl ⟨by rw [hresp]; rfl, rfl⟩⟩
    · obtain ⟨payload, csum, hfits, rfl, rfl⟩ := (splitBody_map_eq_ok_iff _ _ _ _).mp h
      exact ⟨len, code, payload, csum, hfits, .inr ⟨by rw [hreq]; rfl, rfl⟩⟩

/-- A read decodes to an instruction exactly when it is the encoding of that instruction, which is well formed. -/
theorem decodeFrame_eq_ok_iff (raw : List Byte) (i : Instr) :
    decodeFrame raw = .ok i ↔ encode i = .read raw ∧ i.wellFormed = true := by
  constructor
  · intro h
    obtain ⟨len, code, payload, csum, hfits, ⟨rfl, rfl⟩ | ⟨rfl, rfl⟩⟩ := eq_frame_of_decodeFrame raw i h
    · exact ⟨encode_responseRow .., (wellFormed_responseRow ..).trans hfits⟩
    · exact ⟨encode_requestRow .., (wellFormed_requestRow ..).trans hfits⟩
  · rintro ⟨henc, hwf⟩
    have hrow : isFrameRow i = true := by
      by_contra hword
      obtain ⟨c, hc, -⟩ := exists_word_of_not_isFrameRow i (eq_false_of_ne_true hword)
      rw [hc] at henc
      cases henc
    obtain ⟨len, code, payload, csum, rfl | rfl⟩ := eq_row_of_wellFormed i hrow hwf
    · rw [encode_responseRow] at henc
      rw [wellFormed_responseRow] at hwf
      cases henc
      exact (decodeFrame_frameBytes len code payload csum hwf).1
    · rw [encode_requestRow] at henc
      rw [wellFormed_requestRow] at hwf
      cases henc
      exact (decodeFrame_frameBytes len code payload csum hwf).2

/-! ## Every input -/

/-- An input decodes to an instruction exactly when it is the encoding of that instruction, which is well formed. -/
theorem decode_eq_ok_iff (input : HostInput) (i : Instr) :
    decode input = .ok i ↔ encode i = input ∧ i.wellFormed = true := by
  cases input with
  | read raw => exact decodeFrame_eq_ok_iff raw i
  | word c =>
    refine (decodeWord_eq_ok_iff c i).trans ⟨fun h => ⟨h, ?_⟩, And.left⟩
    exact wellFormed_of_not_isFrameRow i (isFrameRow_of_encode_word i c h)

/-- Settles O1: a well-formed instruction's encoding decodes to it. -/
theorem decodeOfEncodeIsTheInstruction : Obligations.DecodeOfEncodeIsTheInstruction :=
  fun i hwf => (decode_eq_ok_iff (encode i) i).mpr ⟨rfl, hwf⟩

/-- Settles O2: an input that decodes is the encoding of a well-formed instruction. -/
theorem encodeOfDecodeIsTheInput : Obligations.EncodeOfDecodeIsTheInput :=
  fun input i => (decode_eq_ok_iff input i).mp

end Sys2Proof.Machine
end

section
/-! PROOFS, family 30_encoding. Sequences of operations: from the port, word by word (R60, R86), and the
pseudo-operations FEED and DECI as their expansions (R86). -/

namespace Sys2Proof.Machine

/-! ## Sequences -/

theorem runAll_append (is js : List Instr) (s : State) : runAll (is ++ js) s = andThen (runAll is s) (runAll js) := by
  induction is generalizing s with
  | nil => rfl
  | cons i is ih => simp only [List.cons_append, runAll, andThen_assoc, funext ih]

theorem runAll_singleton (i : Instr) (s : State) : runAll [i] s = exec i s := by
  obtain ⟨t, ht⟩ := exec_has_next i s
  simp only [runAll, ht, andThen_next]

/-- One operation, issued by its encoding, leaves the rest of the port. -/
theorem step_encode (i : Instr) (hwf : i.wellFormed = true) (rest : List HostInput) (s t : State)
    (ht : exec i s = .next t) : step (setPort (encode i :: rest) s) = .next (setPort rest t) := by
  have hstep := step_of_decode_ok (setPort (encode i :: rest) s) (encode i) rest i rfl
    (decodeOfEncodeIsTheInstruction i hwf)
  obtain ⟨-, hport⟩ := operationsNeverTouchThePort i s t rest ht
  rw [hstep, setPort_setPort, hport]

/-- Operations issued one by one by their encodings: as many steps run them in order (R60). -/
theorem runSteps_encode (is : List Instr) (hwf : ∀ i ∈ is, i.wellFormed = true) (rest : List HostInput) (s : State) :
    runSteps is.length (setPort (is.map encode ++ rest) s) = runAll is (setPort rest s) := by
  induction is generalizing s with
  | nil => rfl
  | cons i is ih =>
    obtain ⟨hi, his⟩ := List.forall_mem_cons.mp hwf
    obtain ⟨t, ht⟩ := exec_has_next i s
    obtain ⟨-, hport⟩ := operationsNeverTouchThePort i s t rest ht
    rw [List.length_cons, runSteps, List.map_cons, List.cons_append, step_encode i hi _ s t ht, andThen_next, ih his,
      runAll, hport, andThen_next]

/-! ## FEED -/

theorem runAll_push (raw : List Byte) (s : State) : runAll (raw.map .push) s = pushAll raw s := by
  induction raw generalizing s with
  | nil => rfl
  | cons b bs ih => exact congrArg (andThen (execPush b s)) (funext ih)

/-- The expansion of `FEED` runs as `FEED` (R86). -/
theorem runAll_feedOps (raw : List Byte) (s : State) : runAll (feedOps raw) s = feed raw s := by
  have heor : runAll [.eor] = execEor := funext (runAll_singleton .eor)
  have hbytes : runAll (raw.map .push ++ [.eor]) = fun t => andThen (pushAll raw t) execEor :=
    funext fun t => by rw [runAll_append, runAll_push, heor]
  exact congrArg (andThen (execSor s)) hbytes

/-- The operations of `FEED` are those of the command word. -/
theorem isFrameRow_of_mem_feedOps (raw : List Byte) (i : Instr) (hi : i ∈ feedOps raw) : isFrameRow i = false := by
  simp only [feedOps, List.mem_cons, List.mem_append, List.mem_map, List.not_mem_nil, or_false] at hi
  obtain rfl | ⟨b, -, rfl⟩ | rfl := hi <;> rfl

/-- Settles O10: a read that decodes is the encoding of a frame row, which is `FEED` of its bytes; any other read is
performed as `FEED`. -/
theorem readOnThePortIsFeed : Obligations.ReadOnThePortIsFeed := by
  intro s raw rest
  cases hdec : decode (.read raw) with
  | ok i =>
    obtain ⟨henc, -⟩ := encodeOfDecodeIsTheInput _ i hdec
    rw [step_of_decode_ok _ (.read raw) rest i rfl hdec, exec_eq_feed_of_encode i raw henc, setPort_setPort]
  | error e => exact step_of_decode_error _ (.read raw) rest e rfl hdec

/-- Settles O11: both are `FEED` of the read's bytes. -/
theorem readStepEqualsItsWordByWordExpansion : Obligations.ReadStepEqualsItsWordByWordExpansion := by
  intro s raw rest
  have hlen : raw.length + 2 = (feedOps raw).length := by simp [feedOps]
  have hwf := fun i hi => wellFormed_of_not_isFrameRow i (isFrameRow_of_mem_feedOps raw i hi)
  rw [hlen, runSteps_encode _ hwf, runAll_feedOps, readOnThePortIsFeed]

/-! ## DECI -/

/-- Loading bytes from operand `k` on writes those operand bytes and nothing else (R104). -/
theorem runAll_loadOps (bs : List Byte) (k : Nat) (s : State) (h : k + bs.length ≤ 4) :
    ∃ t, runAll (loadOps k bs) s = .next t ∧ t = { s with opb := t.opb } ∧
      t.opb.toList.take (k + bs.length) = s.opb.toList.take k ++ bs := by
  induction bs generalizing k s with
  | nil => exact ⟨s, rfl, rfl, by simp⟩
  | cons b bs ih =>
    rw [List.length_cons] at h
    obtain ⟨t, ht, hframe, hopb⟩ := ih (k + 1) (setOperand (Fin.ofNat 4 k) b s) (by omega)
    have hk : (Fin.ofNat 4 k).val = k := Nat.mod_eq_of_lt (by omega)
    refine ⟨t, ht, hframe, ?_⟩
    rw [List.length_cons, ← Nat.add_assoc, Nat.add_right_comm, hopb, setOperand_opb, Vector.toList_set]
    simp only [hk]
    rw [List.take_succ_eq_append_getElem (by simp; omega), List.take_set_of_le le_rfl]
    simp

/-- A list's width is the one with as many bytes. -/
theorem widthOfLength_eq_some_iff (n : Nat) (w : Width) : widthOfLength n = some w ↔ n = w.bytes := by
  constructor
  · intro h
    unfold widthOfLength at h
    split at h <;> cases h <;> rfl
  · rintro rfl
    cases w <;> rfl

/-- Settles O32: the loads put the bytes into the operand registers, which DECO decodes. -/
theorem deciGivesTheSignedValueOfItsBytes : Obligations.DeciGivesTheSignedValueOfItsBytes := by
  intro bs ops s hops
  obtain ⟨w, hw, rfl⟩ := Option.map_eq_some_iff.mp hops
  rw [widthOfLength_eq_some_iff] at hw
  have hle : w.bytes ≤ 4 := by cases w <;> decide
  obtain ⟨t, ht, hframe, hopb⟩ := runAll_loadOps bs 0 s (by omega)
  have hbytes : operandBytes w t = bs := by rw [operandBytes, ← hw]; simpa using hopb
  refine ⟨deliver (sext32 (decodeSigned bs)) t, ?_, rfl, rfl, rfl, ?_⟩
  · rw [runAll_append, ht, andThen_next, runAll_singleton, ← hbytes]; rfl
  · rw [hframe]; rfl

end Sys2Proof.Machine
end

section
/-! PROOFS, family 30_encoding. The checksum of a frame (R76, R126). -/

namespace Sys2Proof.Machine

/-! ## The XOR of a list and of a changed list -/

theorem self_eq_xor_iff (x y : Byte) : x = x ^^^ y ↔ y = 0 := by
  rw [← BitVec.xor_right_inj x, eq_comm]
  simp

/-- Changing one byte changes the XOR by the difference. -/
theorem xorBytes_set (bs : List Byte) (k : Nat) (b : Byte) (hk : k < bs.length) :
    xorBytes (bs.set k b) = xorBytes bs ^^^ (bs.getD k 0 ^^^ b) := by
  induction bs generalizing k with
  | nil => cases hk
  | cons c bs ih =>
    cases k with
    | zero =>
      simp only [List.set_cons_zero, xorBytes, List.getD_cons_zero]
      calc b ^^^ xorBytes bs = (c ^^^ c) ^^^ (b ^^^ xorBytes bs) := by simp
        _ = c ^^^ xorBytes bs ^^^ (c ^^^ b) := by ac_rfl
    | succ k => simp [xorBytes, ih k (by simpa using hk), BitVec.xor_assoc]

theorem checksum_set (len code : Byte) (p : List Byte) (k : Nat) (b : Byte) (hk : k < p.length) :
    checksum len code (p.set k b) = checksum len code p ^^^ (p.getD k 0 ^^^ b) := by
  simp only [checksum, xorBytes_set p k b hk, BitVec.xor_assoc]

/-- The XOR from the length through the checksum byte is the checksum's difference to that byte (R126). -/
theorem xorBytes_frame (len code csum : Byte) (p : List Byte) :
    xorBytes (len :: code :: (p ++ [csum])) = checksum len code p ^^^ csum := by
  simp only [xorBytes, xorBytes_concat, checksum, BitVec.xor_assoc]

/-- Settles O45: a change by a difference `d` changes the checksum by `d`, so one change shows and two alike cancel. -/
theorem checksumCatchesEverySingleByteError : Obligations.ChecksumCatchesEverySingleByteError := by
  intro len code csum p
  refine ⟨?_, ?_⟩
  · exact eq_comm.trans ((xorBytes_frame len code csum p).symm ▸ BitVec.xor_eq_zero_iff).symm
  · rintro rfl
    refine ⟨fun c hc heq => hc ?_, fun k b hk hb heq => hb ?_, fun c hc => hc, fun j k d hjk hk => ?_⟩
    · simpa [checksum, eq_comm] using heq
    · rw [checksum_set len code p k b hk] at heq
      have hdiff : p.getD k 0 = b := BitVec.xor_eq_zero_iff.mp ((self_eq_xor_iff _ _).mp heq)
      rw [List.getElem?_eq_getElem hk, ← hdiff, List.getD_eq_getElem _ _ hk]
    · have hj : j < p.length := hjk.trans hk
      rw [checksum_set _ _ _ _ _ (by simpa using hk), checksum_set _ _ _ _ _ hj]
      simp [List.getD_eq_getElem?_getD, hjk.ne]

end Sys2Proof.Machine
end

section
/-! PROOFS, family 30_encoding. A complete frame, from any state: the window it fills byte by byte (R58, R122), the
verdict on it (R123), and the state it leaves (R124) for the fourteen rows (R87) and the builders' frames (R78, R79). -/

namespace Sys2Proof.Machine

/-! ## The window of a complete frame -/

/-- The direction character of a frame (R72). -/
def directionChar (dir : Bool) : Byte := if dir then Config.responseChar else Config.requestChar

/-- The window after a frame's five header bytes. -/
def headerWindow (s : State) (dir : Bool) (len code : Byte) : State :=
  { openWindow s with cnt := 5, dir := dir, len := len, code := code, xacc := len ^^^ code }

/-- The header bytes of a frame in its window, for both directions. -/
theorem foldl_pushed_header (s : State) (dir : Bool) (len code : Byte) :
    [Config.dollar, Config.letterM, directionChar dir, len, code].foldl
      (fun t b => pushed b t) (openWindow s) = headerWindow s dir len code := by
  cases dir <;>
    simp [pushed, framePosition, advance, openWindow, headerWindow, directionChar, Config.requestChar,
      Config.responseChar]

/-- A payload byte in the window: it is stored at its offset, covered by the checksum, and counted. -/
theorem pushed_of_payload_position (b : Byte) (s : State) (hlo : 5 ≤ s.cnt.toNat)
    (hhi : s.cnt.toNat < s.len.toNat + 5) :
    pushed b s = { s with
      cnt := s.cnt + 1, pay := Memory.set s.pay (s.cnt.toNat - 5) b, xacc := s.xacc ^^^ b } := by
  rw [pushed_eq]
  simp (disch := omega) only [if_pos, if_neg]

/-- The payload bytes of a frame in its window. -/
theorem foldl_pushed_payload (bs : List Byte) (s : State) (hlo : 5 ≤ s.cnt.toNat)
    (hhi : s.cnt.toNat + bs.length ≤ s.len.toNat + 5) :
    bs.foldl (fun t b => pushed b t) s = { s with
      cnt := s.cnt + BitVec.ofNat 9 bs.length, pay := Memory.setList s.pay (s.cnt.toNat - 5) bs
      xacc := s.xacc ^^^ xorBytes bs } := by
  induction bs generalizing s with
  | nil => simp [Memory.setList, xorBytes]
  | cons b bs ih =>
    have hlen := s.len.isLt
    rw [List.length_cons] at hhi
    have hcnt : (s.cnt + 1).toNat = s.cnt.toNat + 1 := by bv_omega
    rw [List.foldl_cons, pushed_of_payload_position b s hlo (by omega),
      ih _ (by simp only; omega) (by simp only; omega)]
    have hoff : s.cnt.toNat + 1 - 5 = s.cnt.toNat - 5 + 1 := by omega
    have hcount : s.cnt + 1 + BitVec.ofNat 9 bs.length = s.cnt + BitVec.ofNat 9 (bs.length + 1) := by
      rw [BitVec.add_assoc, BitVec.ofNat_add, BitVec.add_comm 1]; rfl
    simp only [hcnt, hoff, hcount, Memory.setList, xorBytes, BitVec.xor_assoc, List.length_cons]

/-- The checksum byte in the window. -/
theorem pushed_of_checksum_position (b : Byte) (s : State) (h : s.cnt.toNat = s.len.toNat + 5) :
    pushed b s = { s with cnt := s.cnt + 1, csb := b, cseen := true } := by
  rw [pushed_eq]
  simp (disch := omega) only [if_pos, if_neg]

/-- The window of a complete frame, before EOR. -/
def frameWindow (s : State) (dir : Bool) (len code : Byte) (payload : List Byte) (csum : Byte) : State :=
  { headerWindow s dir len code with
    cnt := BitVec.ofNat 9 (len.toNat + 6), pay := Memory.setList s.pay 0 payload
    xacc := checksum len code payload, csb := csum, cseen := true }

/-- The bytes of a complete frame fill its window (R70, R122). -/
theorem foldl_pushed_frameBytes (s : State) (dir : Bool) (len code : Byte) (payload : List Byte) (csum : Byte)
    (hlen : payload.length = len.toNat) :
    (frameBytes (directionChar dir) len code payload csum).foldl (fun t b => pushed b t) (openWindow s) =
      frameWindow s dir len code payload csum := by
  have hlt := len.isLt
  have hcat : frameBytes (directionChar dir) len code payload csum =
      [Config.dollar, Config.letterM, directionChar dir, len, code] ++ (payload ++ [csum]) := rfl
  have hcnt : (5 + BitVec.ofNat 9 payload.length : BitVec 9) = BitVec.ofNat 9 (len.toNat + 5) := by
    rw [hlen, Nat.add_comm, BitVec.ofNat_add]; rfl
  have hlast : BitVec.ofNat 9 (len.toNat + 6) = BitVec.ofNat 9 (len.toNat + 5) + 1 := BitVec.ofNat_add _ 1
  have hpayload : payload.foldl (fun t b => pushed b t) (headerWindow s dir len code) =
      { headerWindow s dir len code with
        cnt := BitVec.ofNat 9 (len.toNat + 5), pay := Memory.setList s.pay 0 payload
        xacc := checksum len code payload } := by
    rw [foldl_pushed_payload payload _ (by simp [headerWindow]) (by simp [headerWindow]; omega), ← hcnt]
    rfl
  rw [hcat, List.foldl_append, foldl_pushed_header, List.foldl_append, hpayload, List.foldl_cons, List.foldl_nil,
    pushed_of_checksum_position _ _ (by simp [headerWindow]; omega), frameWindow, hlast]

/-- The verdict on a complete frame depends on the mode and the checksum byte alone (R123, R124). -/
theorem verdict_frameWindow (s : State) (dir : Bool) (len code : Byte) (payload : List Byte) (csum : Byte) :
    verdict (frameWindow s dir len code payload csum) =
      if s.strict && decide (csum ≠ checksum len code payload) then .badCsum else .none := by
  have hlt := len.isLt
  have hcnt : (frameWindow s dir len code payload csum).cnt.toNat = len.toNat + 6 := by
    simp [frameWindow]; omega
  unfold verdict
  rw [hcnt, if_neg (by omega), if_neg (by omega)]
  by_cases hcsum : csum = checksum len code payload <;> simp [frameWindow, headerWindow, hcsum]

/-! ## The state a complete frame leaves -/

/-- `FEED` of a complete frame leaves the state of R124, from any state. -/
theorem feed_frameBytes_delivered (s : State) (dir : Bool) (len code : Byte) (payload : List Byte) (csum : Byte)
    (hlen : payload.length = len.toNat) :
    FrameDelivered s dir (catOf code) len code payload csum
      (feed (frameBytes (directionChar dir) len code payload csum) s) := by
  have hverdict := verdict_frameWindow s dir len code payload csum
  refine ⟨latchVerdict (frameWindow s dir len code payload csum), ?_, ?_, fun k => ?_, ?_⟩
  · rw [feed_eq, foldl_pushed_frameBytes s dir len code payload csum hlen]
  · rw [latchVerdict_eq, hverdict]
    cases s.strict && decide (csum ≠ checksum len code payload) <;> rfl
  · rw [latchVerdict_eq]
    simpa [hlen, frameWindow] using Memory.read?_setList payload s.pay 0 k
  · rw [latchVerdict_eq]; rfl

/-- A code outside the six has the class 0 (R44). -/
theorem catOf_of_isOtherCode (code : Byte) (h : isOtherCode code = true) : catOf code = 0 := by
  simp [isOtherCode, Config.namedCodes] at h
  simp [catOf, h]

/-- Settles O25: each response row is `FEED` of the frame with its own code. -/
theorem responseFramesAreDelivered : Obligations.ResponseFramesAreDelivered := by
  intro s len code payload csum hlen
  have h := fun code => feed_frameBytes_delivered s true len code payload csum hlen
  exact ⟨h 0x66, h 0x68, h 0x69, h 0x6C, h 0x6D, h 0xC8, fun hother => catOf_of_isOtherCode code hother ▸ h code⟩

/-- Settles O26: each request row is `FEED` of the frame with its own code. -/
theorem requestFramesAreDelivered : Obligations.RequestFramesAreDelivered := by
  intro s len code payload csum hlen
  have h := fun code => feed_frameBytes_delivered s false len code payload csum hlen
  exact ⟨h 0x66, h 0x68, h 0x69, h 0x6C, h 0x6D, h 0xC8, fun hother => catOf_of_isOtherCode code hother ▸ h code⟩

/-! ## The frames of the builders -/

/-- A complete frame with the right checksum byte is available in both modes (R124). -/
theorem FrameDelivered.available {s : State} {dir : Bool} {cls : BitVec 3} {len code : Byte} {payload : List Byte}
    {r : Result} (h : FrameDelivered s dir cls len code payload (checksum len code payload) r) :
    ∃ t, r = .next t ∧ t.done = true ∧ t.valid = true ∧ t.reason = .none ∧ t.csok = true ∧ t.ferr = false ∧
      t.dir = dir ∧ t.len = len ∧ t.code = code ∧ t.cnt = BitVec.ofNat 9 (len.toNat + 6) ∧
      ∀ k, k < len.toNat → payByte t k = payload.getD k (Config.payReset k) := by
  obtain ⟨t, hr, ht, hpay, -⟩ := h
  refine ⟨t, hr, ?_, ?_, ?_, ?_, ?_, ?_, ?_, ?_, ?_, fun k hk => ?_⟩
  case refine_10 => rw [payByte, hpay, if_pos hk, List.getD_eq_getElem?_getD]
  all_goals rw [ht]
  all_goals simp

theorem buildRequest_eq (code : Byte) : buildRequest code = requestBytes 0 code [] (checksum 0 code []) := by
  simp [buildRequest, requestBytes, frameBytes, checksum_nil]

/-- Settles O46: a built request is a complete frame with the right checksum byte. -/
theorem builtRequestIsAvailable : Obligations.BuiltRequestIsAvailable := by
  intro code s
  obtain ⟨t, ht, -, hvalid, -, hcsok, -, hdir, hlen, hcode, hcnt, -⟩ :=
    (feed_frameBytes_delivered s false 0 code [] (checksum 0 code []) rfl).available
  refine ⟨buildRequest_eq code, ?_, t, ?_, hvalid, hcsok, hdir, hlen, hcode, hcnt⟩
  · rw [buildRequest_eq]; rfl
  · rw [buildRequest_eq]; exact ht

/-- The low byte of a value, as R79 writes it. -/
def lowByte (x : Int) : Byte := BitVec.ofInt 8 (x % 65536 % 256)

/-- The high byte of an int16 value, as R79 writes it. -/
def highByte (x : Int) : Byte := BitVec.ofInt 8 (x % 65536 / 256)

theorem int16Payload_cons (x : Int) (v : List Int) :
    int16Payload (x :: v) = lowByte x :: highByte x :: int16Payload v := rfl

theorem length_int16Payload (v : List Int) : (int16Payload v).length = 2 * v.length := by
  induction v with
  | nil => rfl
  | cons x v ih => rw [int16Payload_cons, List.length_cons, List.length_cons, ih, List.length_cons]; omega

/-- The two bytes of the `k`-th value stand at `2k` and `2k + 1` (R79). -/
theorem int16Payload_getElem? (v : List Int) (k : Nat) (x : Int) (hx : v[k]? = some x) :
    (int16Payload v)[2 * k]? = some (lowByte x) ∧ (int16Payload v)[2 * k + 1]? = some (highByte x) := by
  induction v generalizing k with
  | nil => simp at hx
  | cons y v ih =>
    cases k with
    | zero => cases hx; exact ⟨rfl, rfl⟩
    | succ k => exact ih k hx

/-- The two bytes of an int16 value decode to it (R103). -/
theorem decodeSigned_low_high (x : Int) (hlo : -32768 ≤ x) (hhi : x ≤ 32767) :
    decodeSigned [lowByte x, highByte x] = x := by
  have h := decodeSigned_concat [lowByte x] (highByte x)
  have hlow : (lowByte x).toNat = x % 256 := by
    rw [lowByte, BitVec.toNat_ofInt]; omega
  have hhigh : (highByte x).toInt = x / 256 := by
    rw [highByte, BitVec.toInt_ofInt, Int.bmod_def]; omega
  simp only [List.cons_append, List.nil_append, unsignedLE, List.length_singleton] at h
  rw [h, hhigh]
  push_cast
  rw [hlow]
  omega

/-- Settles O47: a built command is a complete frame with the right checksum byte, and the field at `2k` is the two
bytes of the `k`-th value. -/
theorem builtCommandReadsBack : Obligations.BuiltCommandReadsBack := by
  intro code v raw s hraw
  rw [buildCommand, buildFrame, Option.ite_none_right_eq_some] at hraw
  obtain ⟨hbuildable, hraw⟩ := hraw
  cases hraw
  obtain ⟨hcount, hrange⟩ := (Bool.and_eq_true _ _).mp hbuildable
  have hcount : v.length ≤ 127 := of_decide_eq_true hcount
  have hlen : (BitVec.ofNat 8 (2 * v.length)).toNat = 2 * v.length := by simp; omega
  obtain ⟨t, ht, hdone, hvalid, hreason, hcsok, hferr, hdir, htlen, hcode, hcnt, hpay⟩ :=
    (feed_frameBytes_delivered s false (BitVec.ofNat 8 (2 * v.length)) code (int16Payload v) _
      (by rw [length_int16Payload, hlen])).available
  rw [hlen] at hcnt hpay
  refine ⟨t, ht, hvalid, hreason, hcsok, hdir, hcode, by rw [htlen, hlen], by rw [hcnt]; simp; omega, fun k x hx => ?_⟩
  have hk : k < v.length := (List.getElem?_eq_some_iff.mp hx).1
  have hoff : (BitVec.ofNat 8 (2 * k)).toNat = 2 * k := by simp; omega
  obtain ⟨hlow, hhigh⟩ := int16Payload_getElem? v k x hx
  obtain ⟨hmin, hmax⟩ : -32768 ≤ x ∧ x ≤ 32767 := by
    simpa using List.all_eq_true.mp hrange x (List.mem_of_getElem? hx)
  have hbytes : (List.range Width.w2.bytes).map (fun j => payByte t ((BitVec.ofNat 8 (2 * k)).toNat + j)) =
      [lowByte x, highByte x] := by
    simp [Width.bytes, List.range_succ, hoff, hpay (2 * k) (by omega), hpay (2 * k + 1) (by omega), hlow, hhigh]
  have hfits : (BitVec.ofNat 8 (2 * k)).toNat + Width.w2.bytes ≤ t.len.toNat := by
    rw [htlen, hlen, hoff, Width.bytes]; omega
  rw [exec_eq_apply _ rfl, effectOf_dec_of_fits _ _ _ hdone hvalid hferr hfits, hbytes,
    decodeSigned_low_high x hmin hmax]
  rfl

end Sys2Proof.Machine
end

section
/-! PROOFS, family 30_encoding. The assembler's lines (R85, R86): what a mnemonic with its operands assembles to, and
that whatever a line assembles to is encoded by command words. -/

namespace Sys2Proof.Machine

/-! ## A mnemonic and its operands -/

/-- The text of a line's operands, with the numbers it stands for. -/
structure OperandText (text : List Char) (ns : List Nat) : Prop where
  /-- A blank stands before the first operand. -/
  starts : text = [] ∨ ∃ l, text = ' ' :: l
  no_comment : ∀ c ∈ text, c ≠ ';'
  numbers : ∀ k, commaNumbers (text ++ List.replicate k ' ') = some ns

theorem operandText_nil : OperandText [] [] := ⟨.inl rfl, by simp, commaNumbers_spaces⟩

theorem IsToken.no_semicolon {t : List Char} (h : IsToken t) : ∀ c ∈ t, c ≠ ';' := fun c hc => (h.2 c hc).2.2

theorem operandText_one {t : List Char} {n : Nat} (ht : IsToken t) (hn : number t = some n) :
    OperandText (' ' :: t) [n] where
  starts := .inr ⟨t, rfl⟩
  no_comment := List.forall_mem_cons.mpr ⟨by decide, ht.no_semicolon⟩
  numbers k := commaNumbers_one t n k ht hn

theorem operandText_two {t u : List Char} {n m : Nat} (j : Nat) (ht : IsToken t) (hu : IsToken u)
    (hn : number t = some n) (hm : number u = some m) :
    OperandText (' ' :: t ++ ',' :: (List.replicate j ' ' ++ u)) [n, m] where
  starts := .inr ⟨_, rfl⟩
  no_comment := by
    have hblank : ∀ c ∈ List.replicate j ' ', c ≠ ';' := fun c hc => by rw [List.eq_of_mem_replicate hc]; decide
    simp only [List.forall_mem_append, List.forall_mem_cons]
    exact ⟨⟨by decide, ht.no_semicolon⟩, by decide, hblank, hu.no_semicolon⟩
  numbers k := by simpa using commaNumbers_two t u n m j k ht hu hn hm

/-- What may follow the operands on a line: blanks and a comment. -/
def LineEnd (tail : List Char) : Prop :=
  ∃ k comment, tail = List.replicate k ' ' ++ comment ∧ (comment = [] ∨ comment.head? = some ';')

/-- A mnemonic with the operands `ns` assembles to `r`: as an operation of R85, or else as R86 says. -/
def Assembles (m : List Char) (ns : List Nat) (r : Option (List Instr)) : Prop :=
  (∃ i, assembleOp m ns = some i ∧ r = some [i]) ∨
    (assembleOp m ns = none ∧ ∀ rest, commaNumbers rest = some ns → assemblePseudo m rest = r)

theorem Assembles.op {m : List Char} {ns : List Nat} {i : Instr} (h : assembleOp m ns = some i) :
    Assembles m ns (some [i]) := .inl ⟨i, h, rfl⟩

theorem Assembles.pseudo {m : List Char} {ns : List Nat} {r : Option (List Instr)} (hop : assembleOp m ns = none)
    (h : ∀ rest, commaNumbers rest = some ns → assemblePseudo m rest = r) : Assembles m ns r := .inr ⟨hop, h⟩

/-- A line of a mnemonic, its operands, and a line end. -/
theorem assembleLine_eq {m text tail : List Char} {ns : List Nat} {r : Option (List Instr)} (hm : IsToken m)
    (htext : OperandText text ns) (htail : LineEnd tail) (h : Assembles m ns r) :
    assembleLine (m ++ text ++ tail) = r := by
  obtain ⟨k, comment, rfl, hcomment⟩ := htail
  rw [assembleLine_mnemonic m text comment k hm htext.starts htext.no_comment hcomment, htext.numbers,
    Option.bind_some]
  obtain ⟨i, hop, rfl⟩ | ⟨hop, hpseudo⟩ := h
  · rw [hop]
  · rw [hop]; exact hpseudo _ (htext.numbers k)

/-- A line of bytes between blanks, after a mnemonic that R85 does not have (R86). -/
theorem assembleLine_bytes {m tail : List Char} {write : Byte → List Char} {bs : List Byte} {r : Option (List Instr)}
    (hm : IsToken m) (hwrite : ∀ b, IsToken (write b) ∧ number (write b) = some b.toNat) (htail : LineEnd tail)
    (hop : ∀ ns, assembleOp m ns = none) (hpseudo : ∀ rest, byteTokens rest = some bs → assemblePseudo m rest = r) :
    assembleLine (m ++ (bs.flatMap fun b => ' ' :: write b) ++ tail) = r := by
  obtain ⟨k, comment, rfl, hcomment⟩ := htail
  have hstarts : (bs.flatMap fun b => ' ' :: write b) = [] ∨ ∃ l, (bs.flatMap fun b => ' ' :: write b) = ' ' :: l := by
    cases bs with
    | nil => exact .inl rfl
    | cons b bs => exact .inr ⟨_, rfl⟩
  have hsemi : ∀ c ∈ bs.flatMap fun b => ' ' :: write b, c ≠ ';' := by
    simp only [List.mem_flatMap, List.mem_cons]
    rintro c ⟨b, -, rfl | hc⟩
    · decide
    · exact (hwrite b).1.no_semicolon c hc
  rw [assembleLine_mnemonic m _ comment k hm hstarts hsemi hcomment, Option.bind_eq_none_iff.mpr fun ns _ => hop ns]
  exact hpseudo _ (byteTokens_bytes write bs k (fun b => (hwrite b).1) fun b => (hwrite b).2)

/-! ## The forms of a line, for a way `write` of writing bytes -/

/-- A text that no cut of the assembler breaks, by a check of its characters. -/
theorem isToken_of_check {m : List Char}
    (h : (!m.isEmpty && m.all fun c => !isBlank c && c != ',' && c != ';') = true) : IsToken m := by
  simpa [IsToken, and_assoc] using h

section
variable {write : Byte → List Char} {m tail : List Char} {r : Option (List Instr)}
variable (hwrite : ∀ b, IsToken (write b) ∧ number (write b) = some b.toNat) (htail : LineEnd tail) (hm : IsToken m)
include htail hm

theorem assembleLine_no_operand (h : Assembles m [] r) : assembleLine (m ++ tail) = r := by
  simpa using assembleLine_eq hm operandText_nil htail h

include hwrite

theorem assembleLine_one_byte (x : Byte) (h : Assembles m [x.toNat] r) :
    assembleLine (m ++ ' ' :: write x ++ tail) = r :=
  assembleLine_eq hm (operandText_one (hwrite x).1 (hwrite x).2) htail h

theorem assembleLine_two_bytes (x y : Byte) (j : Nat) (h : Assembles m [x.toNat, y.toNat] r) :
    assembleLine (m ++ ' ' :: write x ++ ',' :: List.replicate j ' ' ++ write y ++ tail) = r := by
  have hline := assembleLine_eq hm (operandText_two j (hwrite x).1 (hwrite y).1 (hwrite x).2 (hwrite y).2) htail h
  simpa using hline

end

/-! ## The operations of the lines -/

theorem assembleOp_byte (b : Byte) : assembleOp ['P', 'U', 'S', 'H'] [b.toNat] = some (.push b) ∧
    assembleOp ['R', 'D', 'B'] [b.toNat] = some (.rdb b) := by
  simp [assembleOp]

theorem assembleOp_dec (w : Width) (off : Byte) :
    assembleOp ['D', 'E', 'C'] [(BitVec.ofNat 8 w.bytes).toNat, off.toNat] = some (.dec w off) := by
  cases w <;> simp [assembleOp, Width.bytes, widthOfLength]

theorem assembleOp_ldo (i : Fin 4) (b : Byte) :
    assembleOp ['L', 'D', 'O'] [(BitVec.ofNat 8 i.val).toNat, b.toNat] = some (.ldo i b) := by
  have hi : (BitVec.ofNat 8 i.val).toNat = i.val := by simp; omega
  rw [hi]
  simp [assembleOp]

theorem assembleOp_deco (w : Width) :
    assembleOp ['D', 'E', 'C', 'O'] [(BitVec.ofNat 8 w.bytes).toNat] = some (.deco w) := by
  cases w <;> rfl

theorem assembleOp_wrc (v : Bool) : assembleOp ['W', 'R', 'C'] [(BitVec.ofNat 8 v.toNat).toNat] = some (.wrc v) := by
  cases v <;> rfl

/-- A width that R83 excludes. -/
theorem widthOfLength_eq_none {n : Nat} (h : n = 0 ∨ 5 ≤ n) : widthOfLength n = none := by
  refine Option.eq_none_iff_forall_ne_some.mpr fun w hw => ?_
  rw [widthOfLength_eq_some_iff] at hw
  obtain ⟨k, hk, hbytes⟩ := Width.bytes_eq_succ w
  omega

/-- A width of 0 or above 4 is no operand of DEC or DECO (R83). -/
theorem assembles_bad_width {x : Byte} (off : Byte) (h : x = 0 ∨ 5 ≤ x.toNat) :
    Assembles ['D', 'E', 'C'] [x.toNat, off.toNat] none ∧ Assembles ['D', 'E', 'C', 'O'] [x.toNat] none := by
  have hnone := widthOfLength_eq_none (h.imp_left (congrArg BitVec.toNat))
  exact ⟨.pseudo (by simp [assembleOp, hnone]) fun _ _ => rfl, .pseudo (by simp [assembleOp, hnone]) fun _ _ => rfl⟩

/-- An index above 3 is no operand of LDO (R83). -/
theorem assembles_bad_index {n : Nat} (b : Nat) (h : 4 ≤ n) : Assembles ['L', 'D', 'O'] [n, b] none :=
  .pseudo (by simp [assembleOp, not_lt.mpr h]) fun _ _ => rfl

/-- A value above 1 is no operand of WRC (R83). -/
theorem assembles_bad_config {n : Nat} (h : 2 ≤ n) : Assembles ['W', 'R', 'C'] [n] none := by
  obtain ⟨k, rfl⟩ := Nat.exists_eq_add_of_le' h
  exact .pseudo rfl fun _ _ => rfl

/-! ## The pseudo-operations of the lines -/

theorem assembles_dec16 (off : Byte) : Assembles ['D', 'E', 'C', '1', '6'] [off.toNat] (some [.dec .w2 off]) :=
  .pseudo rfl fun rest h => by simp [assemblePseudo, h, Pseudo.expand]

theorem assembles_dec32 (off : Byte) : Assembles ['D', 'E', 'C', '3', '2'] [off.toNat] (some [.dec .w4 off]) :=
  .pseudo rfl fun rest h => by simp [assemblePseudo, h, Pseudo.expand]

theorem assembles_dec8 (off : Byte) : Assembles ['D', 'E', 'C', '8'] [off.toNat] (some [.dec .w1 off]) :=
  .pseudo rfl fun rest h => by simp [assemblePseudo, h, Pseudo.expand]

theorem assembles_strict_lax : Assembles ['S', 'T', 'R', 'I', 'C', 'T'] [] (some [.wrc true]) ∧
    Assembles ['L', 'A', 'X'] [] (some [.wrc false]) :=
  ⟨.pseudo rfl fun rest h => by simp [assemblePseudo, h, Pseudo.expand],
    .pseudo rfl fun rest h => by simp [assemblePseudo, h, Pseudo.expand]⟩

theorem assemblePseudo_feed {rest : List Char} {bs : List Byte} (h : byteTokens rest = some bs) :
    assemblePseudo ['F', 'E', 'E', 'D'] rest = some (feedOps bs) := by
  simp [assemblePseudo, h, Pseudo.expand]

/-- `DECI`'s loads, numbered from 0 (R86). -/
theorem loadOps_eq_mapIdx (k : Nat) (bs : List Byte) :
    loadOps k bs = bs.mapIdx fun i b => Instr.ldo (Fin.ofNat 4 (k + i)) b := by
  induction bs generalizing k with
  | nil => rfl
  | cons b bs ih => simp only [loadOps, ih, List.mapIdx_cons, Nat.add_zero, Nat.add_assoc, Nat.add_comm 1]

theorem assemblePseudo_deci {rest : List Char} {bs : List Byte} {w : Width} (h : byteTokens rest = some bs)
    (hw : bs.length = w.bytes) : assemblePseudo ['D', 'E', 'C', 'I'] rest =
      some ((bs.mapIdx fun i b => Instr.ldo (Fin.ofNat 4 i) b) ++ [.deco w]) := by
  rw [← widthOfLength_eq_some_iff] at hw
  simp [assemblePseudo, h, Pseudo.expand, hw, loadOps_eq_mapIdx]

/-! ## The words of R85 -/

theorem encode_dec (w : Width) (off : Byte) :
    encode (.dec w off) = .word (BitVec.ofNat 16 (0x4000 + 256 * w.bytes + off.toNat)) := by cases w <;> rfl

theorem encode_ldo (i : Fin 4) (b : Byte) :
    encode (.ldo i b) = .word (BitVec.ofNat 16 (0x6000 + 256 * i.val + b.toNat)) := by
  have hi : (BitVec.ofNat 4 i.val).toNat = i.val := by simp; omega
  rw [encode, cmdWord, hi]
  rfl

theorem encode_deco (w : Width) : encode (.deco w) = .word (BitVec.ofNat 16 (0x7000 + 256 * w.bytes)) := by
  cases w <;> rfl

theorem encode_wrc (v : Bool) : encode (.wrc v) = .word (BitVec.ofNat 16 (0x8000 + v.toNat)) := by
  cases v <;> rfl

/-! ## What a line assembles to is encoded by command words -/

theorem isFrameRow_of_assembleOp (m : List Char) (ns : List Nat) (i : Instr) (h : assembleOp m ns = some i) :
    isFrameRow i = false := by
  unfold assembleOp at h
  split at h
  case h_1 | h_2 | h_4 | h_9 | h_10 | h_11 => cases h; rfl
  case h_3 | h_6 | h_8 =>
    obtain ⟨_, -, rfl⟩ := Option.map_eq_some_iff.mp h
    rfl
  case h_5 =>
    obtain ⟨_, -, h⟩ := Option.bind_eq_some_iff.mp h
    obtain ⟨_, -, rfl⟩ := Option.map_eq_some_iff.mp h
    rfl
  case h_7 =>
    obtain ⟨-, h⟩ := Option.ite_none_right_eq_some.mp h
    obtain ⟨_, -, rfl⟩ := Option.map_eq_some_iff.mp h
    rfl
  case h_12 => cases h

theorem isFrameRow_of_mem_loadOps (k : Nat) (bs : List Byte) (i : Instr) (hi : i ∈ loadOps k bs) :
    isFrameRow i = false := by
  rw [loadOps_eq_mapIdx, List.mem_mapIdx] at hi
  obtain ⟨_, _, rfl⟩ := hi
  rfl

theorem isFrameRow_of_mem_expand (p : Pseudo) (ops : List Instr) (h : p.expand = some ops) (i : Instr) (hi : i ∈ ops) :
    isFrameRow i = false := by
  cases p with
  | feed raw =>
    cases h
    exact isFrameRow_of_mem_feedOps raw i hi
  | deci bs =>
    obtain ⟨w, -, rfl⟩ := Option.map_eq_some_iff.mp h
    obtain hi | hi := List.mem_append.mp hi
    · exact isFrameRow_of_mem_loadOps 0 bs i hi
    · rw [List.mem_singleton.mp hi]; rfl
  | dec16 | dec32 | dec8 | strict | lax => cases h; rw [List.mem_singleton.mp hi]; rfl

/-- A pseudo-operation's line assembles to its expansion. -/
theorem exists_expand_of_assemblePseudo (m rest : List Char) (ops : List Instr)
    (h : assemblePseudo m rest = some ops) : ∃ p : Pseudo, p.expand = some ops := by
  unfold assemblePseudo at h
  split at h
  case h_4 | h_5 => exact ⟨_, h⟩
  case h_8 => cases h
  all_goals
    obtain ⟨_, -, h⟩ := Option.bind_eq_some_iff.mp h
    exact ⟨_, h⟩

/-- No line assembles to a frame row: the rows' names are labels, not operations (R86). -/
theorem isFrameRow_of_assembleLine (line : List Char) (ops : List Instr) (h : assembleLine line = some ops)
    (i : Instr) (hi : i ∈ ops) : isFrameRow i = false := by
  unfold assembleLine at h
  dsimp only at h
  split at h
  · cases h; cases hi
  · split at h
    case h_1 j hop =>
      cases h
      obtain ⟨ns, -, hop⟩ := Option.bind_eq_some_iff.mp hop
      rw [List.mem_singleton.mp hi]
      exact isFrameRow_of_assembleOp _ ns j hop
    case h_2 =>
      obtain ⟨p, hp⟩ := exists_expand_of_assemblePseudo _ _ ops h
      exact isFrameRow_of_mem_expand p ops hp i hi

/-! ## The statement -/

/-- Settles O7: each form of a line by what its mnemonic and operands assemble to; and no line makes a frame row, so
that all it makes has a command word. -/
theorem assemblerLinesAreTheirOperations : Obligations.AssemblerLinesAreTheirOperations := by
  refine ⟨fun write j k comment hwrite hcomment => ?_, fun line ops h i hi =>
    exists_word_of_not_isFrameRow i (isFrameRow_of_assembleLine line ops h i hi)⟩
  have hnum : ∀ b, IsToken (write b) ∧ number (write b) = some b.toNat := by
    intro b
    obtain h | h := hwrite b <;> rw [h]
    · exact ⟨isToken_decimalText b, number_decimalText b⟩
    · exact ⟨isToken_hexText b, number_hexText b⟩
  have htail : LineEnd (List.replicate k ' ' ++ comment) := ⟨k, comment, rfl, hcomment⟩
  have hblank := assembleLine_blank comment k hcomment
  dsimp only
  generalize List.replicate k ' ' ++ comment = tail at htail hblank
  have nullary := fun {m i} hm => assembleLine_no_operand (m := m) (r := i) htail (isToken_of_check hm)
  have unary := fun {m i} hm => assembleLine_one_byte (m := m) (r := i) hnum htail (isToken_of_check hm)
  have binary := fun {m i} hm => assembleLine_two_bytes (m := m) (r := i) hnum htail (isToken_of_check hm)
  have bytes := fun {m i bs} hm => assembleLine_bytes (m := m) (r := i) (bs := bs) (isToken_of_check hm) hnum htail
  exact ⟨hblank,
    ⟨nullary rfl (.op rfl), rfl⟩,
    ⟨nullary rfl (.op rfl), rfl⟩,
    fun b => ⟨unary rfl b (.op (assembleOp_byte b).1), rfl⟩,
    ⟨nullary rfl (.op rfl), rfl⟩,
    fun w off => ⟨binary rfl _ off j (.op (assembleOp_dec w off)), encode_dec w off⟩,
    fun off => ⟨unary rfl off (.op (assembleOp_byte off).2), rfl⟩,
    fun i b => ⟨binary rfl _ b j (.op (assembleOp_ldo i b)), encode_ldo i b⟩,
    fun w => ⟨unary rfl _ (.op (assembleOp_deco w)), encode_deco w⟩,
    fun v => ⟨unary rfl _ (.op (assembleOp_wrc v)), encode_wrc v⟩,
    ⟨nullary rfl (.op rfl), rfl⟩,
    fun x b hx => ⟨binary rfl x b j (assembles_bad_width b hx).1, unary rfl x (assembles_bad_width b hx).2⟩,
    fun x b hx => binary rfl x b j (assembles_bad_index b.toNat hx),
    fun x hx => unary rfl x (assembles_bad_config hx),
    fun bs => bytes rfl (fun _ => rfl) (fun rest h => assemblePseudo_feed h),
    fun off => ⟨unary rfl off (assembles_dec16 off), unary rfl off (assembles_dec32 off),
      unary rfl off (assembles_dec8 off)⟩,
    fun bs w hbs => bytes rfl (fun _ => rfl) (fun rest h => assemblePseudo_deci h hbs),
    nullary rfl assembles_strict_lax.1, nullary rfl assembles_strict_lax.2⟩

end Sys2Proof.Machine
end

section
/-! PROOFS, family 40_binary_decoder. The decoded integer as the two's-complement value of the list's bit pattern
(R100), at every width: its range and its appended bytes (R102), `Encode_N` (R103), and the register `RES` (R106). -/

namespace Sys2Proof.Machine

/-! ## The pattern -/

/-- The pattern `{bs[N-1], …, bs[0]}` of `8N` bits, whose two's-complement value R100 defines. -/
def bytePattern (bs : List Byte) : BitVec (8 * bs.length) := BitVec.ofNat _ (unsignedLE bs)

theorem bytePattern_toNat (bs : List Byte) : (bytePattern bs).toNat = unsignedLE bs := by
  rw [bytePattern, BitVec.toNat_ofNat, Nat.mod_eq_of_lt (unsignedLE_lt bs)]

/-- The pattern's top bit is bit 7 of the last byte (R102 law 7). -/
theorem bytePattern_msb (bs : List Byte) : (bytePattern bs).msb = signBit bs := by
  rw [BitVec.msb_eq_decide, bytePattern_toNat]
  obtain rfl | ⟨as, b, rfl⟩ := List.eq_nil_or_concat' bs
  · decide
  · have hpow : 2 ^ (8 * (as ++ [b]).length - 1) = 2 ^ 7 * 2 ^ (8 * as.length) := by
      rw [← Nat.pow_add, List.length_append, List.length_singleton]; congr 1; omega
    rw [signBit_concat, BitVec.msb_eq_decide, unsignedLE_concat, hpow, decide_eq_decide,
      ← Nat.le_div_iff_mul_le (by positivity), Nat.add_mul_div_left _ _ (by positivity),
      Nat.div_eq_of_lt (unsignedLE_lt as), Nat.zero_add]

/-- The closed form is the two's-complement value of the pattern (R100). -/
theorem decodeSigned_eq_toInt (bs : List Byte) : decodeSigned bs = (bytePattern bs).toInt := by
  rw [decodeSigned, BitVec.toInt_eq_msb_cond, bytePattern_msb, bytePattern_toNat]
  push_cast
  rfl

/-- The integer is the balanced residue of `U`. -/
theorem decodeSigned_eq_bmod (bs : List Byte) :
    decodeSigned bs = (unsignedLE bs : Int).bmod (2 ^ (8 * bs.length)) := by
  rw [decodeSigned_eq_toInt, BitVec.toInt_eq_toNat_bmod, bytePattern_toNat]

/-- The integer is congruent to `U` (R102 law 5). -/
theorem decodeSigned_emod (bs : List Byte) : decodeSigned bs % 2 ^ (8 * bs.length) = unsignedLE bs := by
  have hlt : (unsignedLE bs : Int) < 2 ^ (8 * bs.length) := by exact_mod_cast unsignedLE_lt bs
  have hmod := Int.bmod_emod (x := (unsignedLE bs : Int)) (m := 2 ^ (8 * bs.length))
  push_cast at hmod
  rw [decodeSigned_eq_bmod, hmod, Int.emod_eq_of_lt (by omega) hlt]

/-- The range (R102 law 2). -/
theorem decodeSigned_range (bs : List Byte) :
    -2 ^ (8 * bs.length - 1) ≤ decodeSigned bs ∧ decodeSigned bs < 2 ^ (8 * bs.length - 1) := by
  rw [decodeSigned_eq_toInt]
  exact ⟨BitVec.le_toInt _, BitVec.toInt_lt⟩

/-! ## Appended bytes -/

theorem decodeSigned_of_signBit {bs : List Byte} (h : signBit bs = true) :
    decodeSigned bs = unsignedLE bs - 2 ^ (8 * bs.length) := if_pos h

theorem decodeSigned_of_not_signBit {bs : List Byte} (h : signBit bs = false) : decodeSigned bs = unsignedLE bs :=
  if_neg (by simp [h])

/-- Appended 0xFF counts as -1 at its place. -/
theorem decodeSigned_concat_ones (bs : List Byte) :
    decodeSigned (bs ++ [0xFF]) = unsignedLE bs - 2 ^ (8 * bs.length) := by
  have hones : (0xFF : Byte).toInt = -1 := by decide
  rw [decodeSigned_concat, hones]
  ring

/-- Appended 0x00 makes the value unsigned. -/
theorem decodeSigned_concat_zero (bs : List Byte) : decodeSigned (bs ++ [0x00]) = unsignedLE bs := by
  have hzero : (0x00 : Byte).toInt = 0 := by decide
  rw [decodeSigned_concat, hzero, mul_zero, add_zero]

/-- Settles O41: the range of the pattern's value, and the appended byte as the new top of the sum. -/
theorem decodeSignedRangeAndSignExtension : Obligations.DecodeSignedRangeAndSignExtension := by
  intro bs _
  obtain ⟨hlo, hhi⟩ := decodeSigned_range bs
  refine ⟨⟨hlo, Int.le_sub_one_of_lt hhi⟩, fun hneg => ?_, fun hpos => ?_⟩
  · rw [decodeSigned_concat_ones, decodeSigned_concat_zero, decodeSigned_of_signBit hneg]
    exact ⟨rfl, (sub_add_cancel _ _).symm⟩
  · rw [decodeSigned_concat_zero, decodeSigned_of_not_signBit hpos]

/-! ## Encode_N -/

theorem length_encodeLE (n : Nat) (v : Int) : (encodeLE n v).length = n := by simp [encodeLE]

/-- One more low digit: the residue modulo `256·m` by its digits to base 256. -/
theorem emod_256_mul (x m : Int) : x % (256 * m) = x % 256 + 256 * (x / 256 % m) := by
  rw [Int.emod_def x, Int.emod_def x, Int.emod_def (x / 256), Int.ediv_ediv_of_nonneg (by omega)]
  ring

/-- The lowest `n` digits of an integer to base 256 are worth its residue modulo `256^n`. -/
theorem unsignedLE_digits (n : Nat) (x : Int) :
    (unsignedLE ((List.range n).map fun i => BitVec.ofInt 8 (x / 256 ^ i)) : Int) = x % 2 ^ (8 * n) := by
  induction n generalizing x with
  | zero => simp [unsignedLE]
  | succ n ih =>
    have hdigits : ∀ i, x / 256 ^ (i + 1) = x / 256 / 256 ^ i := fun i => by
      rw [pow_succ', Int.ediv_ediv_of_nonneg (by omega)]
    have hlow : ((BitVec.ofInt 8 (x / 256 ^ 0)).toNat : Int) = x % 256 := by
      rw [pow_zero, Int.ediv_one, BitVec.toNat_ofInt]
      omega
    rw [List.range_succ_eq_map, List.map_cons, List.map_map, unsignedLE_cons, two_pow_bits_succ, emod_256_mul, ← ih,
      ← hlow]
    simp [Function.comp_def, hdigits]

/-- The unsigned value of `Encode_N(v)` is `v mod 2^(8N)` (R103). -/
theorem unsignedLE_encodeLE (n : Nat) (v : Int) : (unsignedLE (encodeLE n v) : Int) = v % 2 ^ (8 * n) := by
  rw [encodeLE, unsignedLE_digits, Int.emod_emod]

/-- Lists of one length with the same unsigned value are the same list. -/
theorem unsignedLE_injective {as bs : List Byte} (hlen : as.length = bs.length) (h : unsignedLE as = unsignedLE bs) :
    as = bs := by
  induction as generalizing bs with
  | nil => exact (List.length_eq_zero_iff.mp hlen.symm).symm
  | cons a as ih =>
    cases bs with
    | nil => cases hlen
    | cons b bs =>
      have ha := a.isLt
      have hb := b.isLt
      rw [unsignedLE_cons, unsignedLE_cons] at h
      have hhead : a = b := BitVec.eq_of_toNat_eq (by omega)
      rw [hhead, ih (Nat.succ.inj hlen) (by omega)]

/-- Encoding, then decoding: an integer of the range is the balanced residue of itself. -/
theorem decodeSigned_encodeLE (n : Nat) (v : Int) (hn : 1 ≤ n) (hlo : -2 ^ (8 * n - 1) ≤ v)
    (hhi : v ≤ 2 ^ (8 * n - 1) - 1) : decodeSigned (encodeLE n v) = v := by
  have hpow : (2 : Int) ^ (8 * n) = 2 * 2 ^ (8 * n - 1) := by rw [← pow_succ']; congr 1; omega
  have hmod := Int.emod_bmod v (2 ^ (8 * n))
  have hself := Int.bmod_eq_of_le (n := v) (m := 2 ^ (8 * n))
  push_cast at hmod hself
  rw [decodeSigned_eq_bmod, length_encodeLE, unsignedLE_encodeLE, hmod, hself (by omega) (by omega)]

/-- Decoding, then encoding. -/
theorem encodeLE_decodeSigned (bs : List Byte) : encodeLE bs.length (decodeSigned bs) = bs := by
  refine unsignedLE_injective (length_encodeLE _ _) ?_
  have h := unsignedLE_encodeLE bs.length (decodeSigned bs)
  rw [decodeSigned_emod] at h
  exact_mod_cast h

/-- The two bytes of R79 are `Encode_2` (R103). -/
theorem encodeLE_two (v : Int) : encodeLE 2 v = int16Payload [v] := by
  have hlow : BitVec.ofInt 8 (v % 65536) = lowByte v := by
    apply BitVec.eq_of_toNat_eq
    simp only [lowByte, BitVec.toNat_ofInt]
    omega
  rw [int16Payload_cons, ← hlow]
  simp [encodeLE, List.range_succ, highByte, int16Payload]

/-- Settles O40: both compositions at every width, and the case of two bytes. -/
theorem decodeSignedInvertsEncode : Obligations.DecodeSignedInvertsEncode :=
  ⟨fun n v hn hlo hhi => ⟨length_encodeLE n v, decodeSigned_encodeLE n v hn hlo hhi⟩,
    fun bs _ => encodeLE_decodeSigned bs, encodeLE_two⟩

/-! ## The register -/

/-- `RES` is the pattern, sign-extended (R106). -/
theorem sext32_decodeSigned (bs : List Byte) : sext32 (decodeSigned bs) = (bytePattern bs).signExtend 32 := by
  rw [decodeSigned_eq_toInt]; rfl

/-- Settles O43: sign extension to at least the pattern's width keeps its value and copies its top bit. -/
theorem resultReadsBackAsTheInteger : Obligations.ResultReadsBackAsTheInteger := by
  intro bs _ hle
  have hread : (sext32 (decodeSigned bs)).toInt = decodeSigned bs := by
    rw [sext32_decodeSigned, BitVec.toInt_signExtend_of_le (by omega), decodeSigned_eq_toInt]
  refine ⟨?_, hread, fun i hlo hhi => ?_⟩
  · rw [← hread]
    exact ⟨BitVec.le_toInt _, Int.le_sub_one_of_lt BitVec.toInt_lt⟩
  · rw [sext32_decodeSigned, BitVec.getLsbD_signExtend, if_neg (by omega), bytePattern_msb, decide_eq_true hhi,
      Bool.true_and]

end Sys2Proof.Machine
end

section
/-! PROOFS, family 40_binary_decoder. The document's bit procedure computes the closed form (R101). -/

namespace Sys2Proof.Machine

/-! ## Bits and bytes -/

theorem bitsValue_append (xs ys : List Bool) :
    bitsValue (xs ++ ys) = bitsValue xs + 2 ^ xs.length * bitsValue ys := by
  induction xs with
  | nil => simp [bitsValue]
  | cons x xs ih => rw [List.cons_append, bitsValue, ih, bitsValue, List.length_cons]; ring

/-- The lowest `n` bits of a number are worth its residue modulo `2^n`. -/
theorem bitsValue_testBit (x n : Nat) : bitsValue ((List.range n).map x.testBit) = x % 2 ^ n := by
  induction n with
  | zero => simp [bitsValue, Nat.mod_one]
  | succ n ih =>
    rw [List.range_succ, List.map_append, bitsValue_append, ih, Nat.mod_pow_succ]
    simp [bitsValue, Nat.toNat_testBit]

theorem bitsValue_byteBits (b : Byte) : bitsValue (byteBits b) = b.toNat :=
  (bitsValue_testBit b.toNat 8).trans (Nat.mod_eq_of_lt b.isLt)

theorem length_byteBits (b : Byte) : (byteBits b).length = 8 := rfl

theorem length_patternBits (bs : List Byte) : (patternBits bs).length = 8 * bs.length := by
  induction bs with
  | nil => rfl
  | cons b bs ih =>
    rw [patternBits, List.flatMap_cons, List.length_append, ← patternBits, ih, length_byteBits, List.length_cons]
    omega

/-- The bits of the pattern are worth the unsigned value of the bytes. -/
theorem bitsValue_patternBits (bs : List Byte) : bitsValue (patternBits bs) = unsignedLE bs := by
  induction bs with
  | nil => rfl
  | cons b bs ih =>
    rw [patternBits, List.flatMap_cons, bitsValue_append, ← patternBits, ih, bitsValue_byteBits, length_byteBits]
    rfl

/-- The top bit of the pattern is the sign. -/
theorem getLastD_patternBits (bs : List Byte) : (patternBits bs).getLastD false = signBit bs := by
  obtain rfl | ⟨as, b, rfl⟩ := List.eq_nil_or_concat' bs
  · rfl
  · have hbits : byteBits b = (List.range 7).map (b.getLsbD ·) ++ [b.getLsbD 7] := rfl
    rw [patternBits, List.flatMap_append, List.flatMap_singleton, hbits, ← List.append_assoc, List.getLastD_concat,
      signBit, List.getLastD_concat]

/-! ## Complementing -/

/-- A pattern and its complement are all ones together. -/
theorem bitsValue_map_not (xs : List Bool) : bitsValue (xs.map (!·)) + bitsValue xs + 1 = 2 ^ xs.length := by
  induction xs with
  | nil => rfl
  | cons x xs ih =>
    have hx : (!x).toNat + x.toNat = 1 := by cases x <;> rfl
    rw [List.map_cons, bitsValue, bitsValue, List.length_cons, pow_succ]
    omega

/-- Complementing left of the rightmost set bit gives the magnitude `2^n - X`: below that bit both patterns are zero,
at it both are one, and above it they are complements (R101). -/
theorem bitsValue_complementAbove (xs : List Bool) (h : true ∈ xs) :
    bitsValue (complementAbove xs) + bitsValue xs = 2 ^ xs.length := by
  induction xs with
  | nil => cases h
  | cons x xs ih =>
    cases x with
    | false =>
      have ih := ih (by simpa using h)
      simp only [complementAbove, bitsValue, List.length_cons, pow_succ, Bool.toNat_false]
      omega
    | true =>
      have hnot := bitsValue_map_not xs
      simp only [complementAbove, bitsValue, List.length_cons, pow_succ, Bool.toNat_true]
      omega

/-- Settles O42: a pattern with its top bit set has a set bit, and the magnitude is `2^(8N) - U`. -/
theorem bitProcedureEqualsClosedForm : Obligations.BitProcedureEqualsClosedForm := by
  intro bs _
  rw [decodeSignedByBits, getLastD_patternBits]
  cases hsign : signBit bs with
  | false => rw [if_neg (by decide), bitsValue_patternBits, decodeSigned_of_not_signBit hsign]
  | true =>
    have hset : true ∈ patternBits bs := by
      have hlast : (patternBits bs).getLastD false ∈ false :: patternBits bs := List.getLastD_mem_cons
      rw [getLastD_patternBits, hsign] at hlast
      simpa using hlast
    have hmagnitude := bitsValue_complementAbove (patternBits bs) hset
    rw [bitsValue_patternBits, length_patternBits] at hmagnitude
    have hmagnitude : (bitsValue (complementAbove (patternBits bs)) : Int) + unsignedLE bs = 2 ^ (8 * bs.length) := by
      exact_mod_cast hmagnitude
    rw [if_pos rfl, decodeSigned_of_signBit hsign]
    omega

end Sys2Proof.Machine
end

section
/-! PROOFS, family 40_binary_decoder. LDO and DECO (R104, R105). -/

namespace Sys2Proof.Machine

/-- The one word of an operation, by the operation's encoding as R85 writes it. -/
theorem decodeWord_eq_ok_iff_toNat {i : Instr} {n : Nat} (henc : encode i = .word (BitVec.ofNat 16 n))
    (hn : n < 2 ^ 16) (c : CmdWord) : decodeWord c = .ok i ↔ c.toNat = n := by
  rw [decodeWord_eq_ok_iff, henc, HostInput.word.injEq, BitVec.toNat_eq_nat, eq_comm, and_iff_right hn]

/-- The operations that leave the operand bytes (R104). -/
def keepsOperands (i : Instr) : Prop := (∀ j c, i ≠ .ldo j c) ∧ i ≠ .rst

/-- Every operation but LDO and RST leaves the operand bytes: no other effect writes them. -/
theorem exec_keeps_opb (i : Instr) (hi : keepsOperands i) (s t : State) (ht : exec i s = .next t) : t.opb = s.opb := by
  have h := keptByEffects_of_predicate (A := keepsOperands) (P := fun u => u.opb = s.opb) <| by
    rintro i e u ⟨hldo, hrst⟩ hu hg
    cases e with
    | received b => exact (pushed_opb b u).trans hu
    | operand j c => exact absurd hg (hldo j c)
    | reset => exact absurd hg hrst
    | same | refused | opened | closed | missed | malformed | delivered | mode => exact hu
  exact (h.keeps_exec (by simp [keepsOperands]) (by simp [keepsOperands]) (by simp [keepsOperands]) i hi s s t t
    ⟨rfl, rfl⟩ ht ht).2

/-- Settles O30: the word of R85, the write of one operand byte, and the effects that keep it. -/
theorem ldoLoadsOneOperandByte : Obligations.LdoLoadsOneOperandByte := by
  intro i b s
  refine ⟨decodeWord_eq_ok_iff_toNat (encode_ldo i b) (by omega), setOperand i b s, rfl, rfl, fun j => ?_,
    fun other u hldo hrst hu => exec_keeps_opb other ⟨hldo, hrst⟩ _ u hu⟩
  simp [Fin.getElem_fin, Vector.getElem_set, Fin.ext_iff, eq_comm]

/-- The operand registers as the list R105 writes. -/
theorem operandBytes_eq (w : Width) (s : State) :
    operandBytes w s = [s.opb[0], s.opb[1], s.opb[2], s.opb[3]].take w.bytes := by
  have hopb : s.opb.toList = [s.opb[0], s.opb[1], s.opb[2], s.opb[3]] := by
    refine List.ext_getElem (by simp) fun k _ (hk : k < 4) => ?_
    interval_cases k <;> rfl
  rw [operandBytes, hopb]

/-- Settles O31: the word of R85, and the delivery of the operand bytes. -/
theorem decoDecodesTheOperandBytes : Obligations.DecoDecodesTheOperandBytes := by
  intro w s
  refine ⟨decodeWord_eq_ok_iff_toNat (encode_deco w) (by cases w <;> decide), ?_⟩
  rw [← operandBytes_eq]
  rfl

end Sys2Proof.Machine
end

section
/-! PROOFS, family 41_frame_parser. SOR, PUSH and EOR, one by one (R121, R122, R123). -/

namespace Sys2Proof.Machine

/-! ## SOR -/

/-- Settles O19: the word of R85, and all that SOR writes. -/
theorem sorOpensACleanWindow : Obligations.SorOpensACleanWindow :=
  ⟨decodeWord_eq_ok_iff_toNat rfl (by omega), fun s => ⟨openWindow s, rfl, rfl, rfl⟩⟩

/-! ## PUSH -/

/-- The word of PUSH (R85). -/
theorem encode_push (b : Byte) : encode (.push b) = .word (BitVec.ofNat 16 (0x2000 + b.toNat)) := by
  simp only [encode, HostInput.word.injEq]
  revert b
  decide

/-- A PUSH with no window open is refused (R122). -/
theorem exec_push_of_closed (b : Byte) (s : State) (hopen : s.winOpen = false) :
    exec (.push b) s = .next { s with err := true } := by
  rw [exec_eq_apply _ rfl, effectOf, if_neg (by simp [hopen])]
  rfl

/-- A PUSH in an open window performs (R122). -/
theorem exec_push_of_open (b : Byte) (s : State) (hopen : s.winOpen = true) :
    exec (.push b) s = .next (pushed b s) := by
  rw [exec_eq_apply _ rfl, effectOf, if_pos hopen]
  rfl

/-- The byte after the checksum byte, and every later one, only marks the window (R122, R31). -/
theorem pushed_of_trailing_position (b : Byte) (s : State) (h : s.len.toNat + 5 < s.cnt.toNat) :
    pushed b s = { s with trail := true } := by
  rw [pushed_eq]
  simp (disch := omega) only [if_pos, if_neg]

/-- The next count, by the number of the position. -/
theorem cnt_add_one {s : State} {i : Nat} (h : s.cnt.toNat = i) : s.cnt + 1 = BitVec.ofNat 9 (i + 1) := by
  rw [← h, BitVec.ofNat_add, BitVec.ofNat_toNat, BitVec.setWidth_eq]
  rfl

/-- Settles O20: the word of R85, the refusal, and PUSH at each position of the frame. -/
theorem pushGoesToItsFramePosition : Obligations.PushGoesToItsFramePosition := by
  intro b s i
  have hlen := s.len.isLt
  refine ⟨decodeWord_eq_ok_iff_toNat (encode_push b) (by omega), exec_push_of_closed b s,
    fun ho hi => ?header0, fun ho hi => ?header1, fun ho hi => ?direction, fun ho hi => ?length, fun ho hi => ?code,
    fun ho hlo hhi => ?payload, fun ho _ hi => ?checksum, fun ho _ hi => ?trailing⟩
  all_goals rw [exec_push_of_open b s ho]
  case payload =>
    rw [pushed_of_payload_position b s hlo hhi, cnt_add_one rfl]
    exact ⟨_, rfl, fun k => Memory.read?_set ..⟩
  case checksum => rw [pushed_of_checksum_position b s hi, cnt_add_one rfl]
  case trailing => rw [pushed_of_trailing_position b s (by omega)]
  all_goals
    rw [pushed_eq, cnt_add_one hi]
    simp (disch := omega) only [if_pos, if_neg, Bool.decide_and]
    rfl

/-! ## EOR -/

/-- `REASON = 0` says that there is no reason (R33). -/
theorem Reason.code_eq_zero_iff (r : Reason) : r.code = 0 ↔ r = .none := by
  cases r <;> decide

/-- The verdict, its conditions as R123 lists them. -/
theorem verdict_eq (s : State) : verdict s =
    if s.cnt.toNat = 0 then .empty
    else if s.cnt.toNat ≤ 4 then .short
    else if s.hbad = true then .badHdr
    else if s.cnt.toNat < s.len.toNat + 5 then .trunc
    else if s.strict = true ∧ s.cseen = false then .noCsum
    else if s.strict = true ∧ s.csb ≠ s.xacc then .badCsum
    else .none := by
  simp only [verdict, Bool.and_eq_true, Bool.not_eq_true', decide_eq_true_eq]

/-- Settles O22: the word of R85, the refusal, and the verdict latched with the closing of the window. -/
theorem eorLatchesTheFirstReason : Obligations.EorLatchesTheFirstReason := by
  refine ⟨decodeWord_eq_ok_iff_toNat rfl (by omega), fun s => ⟨fun hopen => ?_, fun hopen => ?_⟩⟩
  · rw [exec_eq_apply _ rfl, effectOf, if_neg (by simp [hopen])]
    rfl
  · rw [exec_eq_apply _ rfl, effectOf, if_pos hopen]
    simp only [← verdict_eq, Reason.code_eq_zero_iff, Bool.decide_and, Bool.decide_eq_true]
    rfl

end Sys2Proof.Machine
end

section
/-! PROOFS, family 41_frame_parser. `FEED` against `Parse` (R124): the window that any read leaves before EOR, in closed
form over the whole read, and the verdict on it. -/

namespace Sys2Proof.Machine

/-! ## The window of any read -/

/-- A header position received a byte that is neither of the two it takes (R26, R122); no byte yet is no mismatch. -/
def mismatch (received : Option Byte) (x y : Byte) : Bool := received.any fun b => decide (b ≠ x) && decide (b ≠ y)

/-- The window that the bytes `raw` leave, before EOR (R124's table). -/
def readWindow (s : State) (raw : List Byte) : State :=
  let len := raw.getD 3 0
  let cseen := decide (4 ≤ raw.length ∧ len.toNat + 6 ≤ raw.length)
  { openWindow s with
    cnt := BitVec.ofNat 9 (if raw.length ≤ 3 then raw.length else min raw.length (len.toNat + 6))
    hbad := mismatch raw[0]? Config.dollar Config.dollar || mismatch raw[1]? Config.letterM Config.letterM ||
      mismatch raw[2]? Config.requestChar Config.responseChar
    dir := decide (raw[2]? = some Config.responseChar), len := len, code := raw.getD 4 0
    pay := Memory.setList s.pay 0 ((raw.drop 5).take len.toNat)
    xacc := xorBytes ((raw.take (len.toNat + 5)).drop 3)
    csb := if cseen then raw.getD (len.toNat + 5) 0 else 0, cseen := cseen
    trail := decide (4 ≤ raw.length ∧ len.toNat + 6 < raw.length) }

theorem readWindow_cnt_toNat (s : State) (raw : List Byte) : (readWindow s raw).cnt.toNat =
    if raw.length ≤ 3 then raw.length else min raw.length ((raw.getD 3 0).toNat + 6) := by
  have hlen := (raw.getD 3 0).isLt
  simp only [readWindow, BitVec.toNat_ofNat]
  exact Nat.mod_eq_of_lt (by split_ifs <;> omega)

/-! ## The bytes fill the window -/

/-- Past the checksum byte, further bytes only mark the window (R31). -/
theorem foldl_pushed_trailing (bs : List Byte) (s : State) (h : s.len.toNat + 5 < s.cnt.toNat) :
    bs.foldl (fun t b => pushed b t) s = { s with trail := s.trail || decide (0 < bs.length) } := by
  induction bs generalizing s with
  | nil => simp
  | cons b bs ih =>
    rw [List.foldl_cons, pushed_of_trailing_position b s h, ih { s with trail := true } h]
    simp

/-- The bytes from the checksum position on: the checksum byte, then the trailing ones. -/
theorem foldl_pushed_from_checksum (bs : List Byte) (s : State) (h : s.cnt.toNat = s.len.toNat + 5) :
    bs.foldl (fun t b => pushed b t) s = { s with
      cnt := s.cnt + BitVec.ofNat 9 (min bs.length 1), csb := bs.headD s.csb
      cseen := s.cseen || decide (0 < bs.length), trail := s.trail || decide (1 < bs.length) } := by
  have hlen := s.len.isLt
  cases bs with
  | nil => simp
  | cons b bs =>
    rw [List.foldl_cons, pushed_of_checksum_position b s h, foldl_pushed_trailing bs _ (by dsimp only; bv_omega)]
    simp

/-- The bytes after the five header bytes: as many as the length says are the payload, cut or not. -/
theorem foldl_pushed_body (body : List Byte) (s : State) (hcnt : s.cnt = 5) :
    body.foldl (fun t b => pushed b t) s = { s with
      cnt := BitVec.ofNat 9 (min (body.length + 5) (s.len.toNat + 6))
      pay := Memory.setList s.pay 0 (body.take s.len.toNat), xacc := s.xacc ^^^ xorBytes (body.take s.len.toNat)
      csb := (body.drop s.len.toNat).headD s.csb, cseen := s.cseen || decide (s.len.toNat < body.length)
      trail := s.trail || decide (s.len.toNat + 1 < body.length) } := by
  have hlen := s.len.isLt
  have hcount (n : Nat) : (5 : BitVec 9) + BitVec.ofNat 9 n = BitVec.ofNat 9 (n + 5) := by
    rw [BitVec.ofNat_add, BitVec.add_comm]; rfl
  have hpayload := foldl_pushed_payload (body.take s.len.toNat) s (by simp [hcnt]) (by simp [hcnt]; omega)
  rw [hcnt, hcount, List.length_take] at hpayload
  conv_lhs => rw [← List.take_append_drop s.len.toNat body, List.foldl_append, hpayload]
  rcases Nat.lt_or_ge body.length s.len.toNat with hcut | hwhole
  · have hdrop : body.drop s.len.toNat = [] := List.drop_eq_nil_of_le (by omega)
    have hmin : min (body.length + 5) (s.len.toNat + 6) = min s.len.toNat body.length + 5 := by omega
    have hno : ¬ s.len.toNat < body.length ∧ ¬ s.len.toNat + 1 < body.length := by omega
    simp [hdrop, hmin, hno]
  · have hmin : min (body.length + 5) (s.len.toNat + 6) =
        min s.len.toNat body.length + 5 + min (body.length - s.len.toNat) 1 := by omega
    have htrail : s.len.toNat + 1 < body.length ↔ 1 < body.length - s.len.toNat := by omega
    rw [foldl_pushed_from_checksum _ _ (by simp; omega)]
    simp [hmin, htrail, BitVec.ofNat_add]

/-- The window after at most five bytes, one by one. -/
theorem foldl_pushed_of_length_le_five (raw : List Byte) (s : State) (h : raw.length ≤ 5) :
    raw.foldl (fun t b => pushed b t) (openWindow s) = readWindow s raw := by
  match raw with
  | [] | [_] | [_, _] | [_, _, _] | [_, _, _, _] | [_, _, _, _, _] =>
    simp [pushed, framePosition, advance, openWindow, readWindow, mismatch, xorBytes, Memory.setList]
  | _ :: _ :: _ :: _ :: _ :: _ :: _ => simp only [List.length_cons] at h; omega

/-- The pushes of a read fill its window: the header bytes one by one, then the rest (R58, R122). -/
theorem foldl_pushed_eq_readWindow (raw : List Byte) (s : State) :
    raw.foldl (fun t b => pushed b t) (openWindow s) = readWindow s raw := by
  match raw with
  | [] | [_] | [_, _] | [_, _, _] | [_, _, _, _] => exact foldl_pushed_of_length_le_five _ s (by simp)
  | b0 :: b1 :: b2 :: len :: code :: body =>
    have hheader := foldl_pushed_of_length_le_five [b0, b1, b2, len, code] s le_rfl
    rw [show b0 :: b1 :: b2 :: len :: code :: body = [b0, b1, b2, len, code] ++ body from rfl, List.foldl_append,
      hheader, foldl_pushed_body body _ (by simp [readWindow])]
    have hlong : ¬ body.length + 1 + 1 + 1 + 1 < 3 := by omega
    have hshort : ¬ len.toNat + 6 < 5 := by omega
    have hnone (h : body.length ≤ len.toNat) : body[len.toNat]?.getD 0#8 = 0#8 := by
      rw [List.getElem?_eq_none h]; rfl
    have htrail : len.toNat + 2 ≤ body.length ↔ len.toNat + 1 < body.length := Iff.rfl
    simpa [readWindow, Memory.setList, xorBytes, BitVec.xor_assoc, hlong, hshort, htrail] using hnone

/-! ## The verdict on the window is Parse's -/

/-- The frame that a window holds once it is closed (R124). -/
def windowFrame (s : State) (raw : List Byte) : Frame :=
  let t := closeWindow (readWindow s raw)
  ⟨t.dir, t.len, t.code, (raw.drop 5).take t.len.toNat, t.cseen, t.csok, t.trail⟩

/-- The verdict by the comparison that EOR latches (R34, R123): where no checksum byte was seen, the reason is that. -/
theorem verdict_eq_of_csok (s : State) : verdict s =
    if s.cnt.toNat = 0 then .empty
    else if s.cnt.toNat ≤ 4 then .short
    else if s.hbad then .badHdr
    else if s.cnt.toNat < s.len.toNat + 5 then .trunc
    else if s.strict && !s.cseen then .noCsum
    else if s.strict && !(closeWindow s).csok then .badCsum
    else .none := by
  rw [closeWindow_csok, verdict]
  cases s.strict <;> cases s.cseen <;> simp

section LongRead

variable (s : State) (b0 b1 b2 len code : Byte) (body : List Byte)

theorem readWindow_cnt_long : (readWindow s (b0 :: b1 :: b2 :: len :: code :: body)).cnt.toNat =
    min (body.length + 5) (len.toNat + 6) := by
  rw [readWindow_cnt_toNat, if_neg (by simp only [List.length_cons]; omega)]
  rfl

/-- The header of a window of at least five bytes (R124). -/
theorem readWindow_hbad_iff : (readWindow s (b0 :: b1 :: b2 :: len :: code :: body)).hbad = true ↔
    b0 ≠ Config.dollar ∨ b1 ≠ Config.letterM ∨ (b2 ≠ Config.requestChar ∧ b2 ≠ Config.responseChar) := by
  simp [readWindow, mismatch, or_assoc]

theorem readWindow_cseen : (readWindow s (b0 :: b1 :: b2 :: len :: code :: body)).cseen =
    decide (len.toNat < body.length) := by
  simp [readWindow]

/-- The comparison that EOR latches is the one `Parse` makes (R76, R124). -/
theorem readWindow_csok : (closeWindow (readWindow s (b0 :: b1 :: b2 :: len :: code :: body))).csok =
    (decide (len.toNat < body.length) &&
      decide (body.getD len.toNat 0 = checksum len code (body.take len.toNat))) := by
  rw [closeWindow_csok, readWindow_cseen]
  by_cases h : len.toNat < body.length <;>
    simp [h, readWindow, checksum, xorBytes, BitVec.xor_assoc]

/-- EOR's conditions on a window of at least five bytes are those of `Parse` (R123, R124). -/
theorem verdict_readWindow : verdict (readWindow s (b0 :: b1 :: b2 :: len :: code :: body)) =
    if b0 ≠ Config.dollar ∨ b1 ≠ Config.letterM ∨ (b2 ≠ Config.requestChar ∧ b2 ≠ Config.responseChar) then .badHdr
    else if body.length < len.toNat then .trunc
    else if s.strict && !decide (len.toNat < body.length) then .noCsum
    else if s.strict && !(decide (len.toNat < body.length) &&
      decide (body.getD len.toNat 0 = checksum len code (body.take len.toNat))) then .badCsum
    else .none := by
  have hlen : (readWindow s (b0 :: b1 :: b2 :: len :: code :: body)).len = len := rfl
  have hstrict : (readWindow s (b0 :: b1 :: b2 :: len :: code :: body)).strict = s.strict := rfl
  have hcut : min (body.length + 5) (len.toNat + 6) < len.toNat + 5 ↔ body.length < len.toNat := by omega
  rw [verdict_eq_of_csok, readWindow_cnt_long, if_neg (by omega), if_neg (by omega), readWindow_cseen, readWindow_csok,
    hlen, hstrict]
  simp only [readWindow_hbad_iff, hcut]

theorem windowFrame_eq : windowFrame s (b0 :: b1 :: b2 :: len :: code :: body) =
    ⟨decide (b2 = Config.responseChar), len, code, body.take len.toNat, decide (len.toNat < body.length),
      decide (len.toNat < body.length) && decide (body.getD len.toNat 0 = checksum len code (body.take len.toNat)),
      decide (len.toNat + 1 < body.length)⟩ := by
  simp only [windowFrame, readWindow_csok]
  simp [readWindow, Nat.succ_le_iff]

end LongRead

/-- `Parse` is EOR's verdict on the window of the read, with the frame the window holds (R123, R124). -/
theorem parse_eq (raw : List Byte) (s : State) : parse raw s.strict =
    if verdict (readWindow s raw) = .none then .ok (windowFrame s raw) else .error (verdict (readWindow s raw)) := by
  match raw with
  | [] | [_] | [_, _] | [_, _, _] | [_, _, _, _] => simp [verdict, parse, readWindow_cnt_toNat]
  | b0 :: b1 :: b2 :: len :: code :: body =>
    rw [verdict_readWindow, windowFrame_eq]
    simp only [parse]
    split_ifs <;> trivial

/-- The reason's side of `Parse` is EOR's verdict. -/
theorem parseReason_eq (raw : List Byte) (s : State) : parseReason raw s.strict = verdict (readWindow s raw) := by
  rw [parseReason, parse_eq]
  split_ifs with h
  · exact h.symm
  · rfl

/-- A frame that `Parse` gives is the one the window holds, and its payload is whole. -/
theorem eq_windowFrame_of_parse (raw : List Byte) (s : State) (f : Frame) (h : parse raw s.strict = .ok f) :
    f = windowFrame s raw ∧ (raw.getD 3 0).toNat ≤ raw.length - 5 := by
  rw [parse_eq] at h
  split_ifs at h with hverdict
  obtain ⟨hfive, -, hwhole, -⟩ := (verdict_eq_none_iff _).mp hverdict
  have hcnt := readWindow_cnt_toNat s raw
  have hlen : (readWindow s raw).len = raw.getD 3 0 := rfl
  rw [hlen] at hwhole
  refine ⟨(Except.ok.inj h).symm, ?_⟩
  split_ifs at hcnt <;> omega

/-! ## FEED -/

/-- `FEED` leaves the window of the read, closed with its verdict (R86, R124). -/
theorem feed_eq_readWindow (raw : List Byte) (s : State) : feed raw s = .next { closeWindow (readWindow s raw) with
    valid := decide (parseReason raw s.strict = .none), reason := parseReason raw s.strict } := by
  rw [feed_eq, foldl_pushed_eq_readWindow, latchVerdict_eq, ← parseReason_eq]

/-- The payload bytes stand in the read after the five header bytes (R70). -/
theorem getElem?_payload (raw : List Byte) (len k : Nat) (h : k < len) :
    ((raw.drop 5).take len)[k]? = raw[5 + k]? := by
  rw [List.getElem?_take_of_lt h, List.getElem?_drop]

/-- The payload buffer of a read's window: the received payload bytes at its low end, the rest as before (R122). -/
theorem read?_readWindow (s : State) (raw : List Byte) (k : Nat) : Memory.read? (readWindow s raw).pay k =
    if k < min (raw.getD 3 0).toNat (raw.length - 5) then raw[5 + k]? else Memory.read? s.pay k := by
  rw [readWindow, Memory.read?_setList, List.length_take, List.length_drop]
  by_cases hk : k < min (raw.getD 3 0).toNat (raw.length - 5)
  · rw [if_pos (by omega), if_pos hk, Nat.sub_zero, getElem?_payload raw _ k (by omega)]
  · rw [if_neg (by omega), if_neg hk]

/-- Settles O24: the closed window field by field, and the frame that `Parse` reads from it. -/
theorem feedReachesTheStateOfParse : Obligations.FeedReachesTheStateOfParse := by
  intro raw s n len cseen xacc csb
  refine ⟨_, feed_eq_readWindow raw s, rfl, rfl, rfl, rfl, readWindow_cnt_toNat s raw, rfl, rfl, rfl,
    read?_readWindow s raw, rfl, rfl, rfl, rfl, rfl, rfl, rfl, rfl, rfl, rfl, rfl, rfl, rfl, rfl, fun f hf => ?_⟩
  obtain ⟨rfl, hwhole⟩ := eq_windowFrame_of_parse raw s f hf
  refine ⟨rfl, rfl, rfl, rfl, rfl, rfl, ?_, fun k (hk : k < len.toNat) => ?_⟩
  · simpa [windowFrame, readWindow] using hwhole
  · refine (read?_readWindow s raw k).trans ?_
    rw [if_pos (lt_min hk (hk.trans_le hwhole))]
    exact (getElem?_payload raw _ k hk).symm

end Sys2Proof.Machine
end

section
/-! PROOFS, family 42_payload_access. DEC and RDB, one by one (R150, R151). -/

namespace Sys2Proof.Machine

/-! ## DEC -/

/-- A DEC outside phase DONE is refused (R150). -/
theorem exec_dec_of_not_done (w : Width) (off : Byte) (s : State) (hdone : s.done = false) :
    exec (.dec w off) s = .next { s with err := true } := by
  rw [exec_eq_apply _ rfl, effectOf, if_pos hdone]
  rfl

/-- A DEC on an unavailable frame delivers nothing and raises nothing (R150, first branch). -/
theorem exec_dec_of_unavailable (w : Width) (off : Byte) (s : State) (hdone : s.done = true)
    (hvalid : s.valid = false) : exec (.dec w off) s = .next { s with hit := false } := by
  rw [exec_eq_apply _ rfl, effectOf, if_neg (by simp [hdone]), if_pos hvalid]
  rfl

/-- A DEC outside the payload of an available frame, or after one, is a MalformedField (R150, second branch). -/
theorem exec_dec_of_malformed (w : Width) (off : Byte) (s : State) (hdone : s.done = true) (hvalid : s.valid = true)
    (hfail : s.ferr = true ∨ s.len.toNat < off.toNat + w.bytes) :
    exec (.dec w off) s = .next { s with ferr := true, hit := false } := by
  rw [exec_eq_apply _ rfl, effectOf, if_neg (by simp [hdone]), if_neg (by simp [hvalid]), if_pos hfail]
  rfl

/-- A DEC inside the payload of an available frame delivers the signed value (R150, third branch). -/
theorem exec_dec_of_fits (w : Width) (off : Byte) (s : State) (hdone : s.done = true) (hvalid : s.valid = true)
    (hferr : s.ferr = false) (hfits : off.toNat + w.bytes ≤ s.len.toNat) :
    exec (.dec w off) s = .next (deliver
      (sext32 (decodeSigned ((List.range w.bytes).map fun j => payByte s (off.toNat + j)))) s) := by
  rw [exec_eq_apply _ rfl, effectOf_dec_of_fits w off s hdone hvalid hferr hfits]
  rfl

/-- In phase DONE a DEC that says `HIT = 1` had an available frame. -/
theorem valid_of_dec_hit {w : Width} {off : Byte} {s t : State} (hdone : s.done = true)
    (ht : exec (.dec w off) s = .next t) (hhit : t.hit = true) : s.valid = true := by
  cases hvalid : s.valid with
  | true => rfl
  | false =>
    rw [exec_dec_of_unavailable w off s hdone hvalid] at ht
    cases ht
    cases hhit

/-- An EOR in an open window closes it; in strict mode the frame is available only where the checksum matched (R123). -/
theorem csok_of_strict_eor {u s : State} (hstrict : u.strict = true) (hopen : u.winOpen = true)
    (hs : exec .eor u = .next s) : s.done = true ∧ (s.valid = true → s.csok = true) := by
  rw [exec_eq_apply .eor rfl, effectOf, if_pos hopen] at hs
  cases hs
  refine ⟨rfl, fun hvalid => ?_⟩
  obtain ⟨-, -, -, hsum⟩ := (verdict_eq_none_iff u).mp (of_decide_eq_true hvalid)
  obtain ⟨hseen, hcsb⟩ := hsum hstrict
  simp [Effect.apply, hseen, hcsb]

/-- Settles O28: the word of R85, the branches of DEC, and the checksum that a strict EOR asked for. -/
theorem decDeliversTheSignedField : Obligations.DecDeliversTheSignedField := by
  intro w off s bytes
  have hw : w.bytes ≤ 4 := by cases w <;> decide
  refine ⟨decodeWord_eq_ok_iff_toNat (encode_dec w off) (by have := off.isLt; omega), exec_dec_of_not_done w off s,
    exec_dec_of_unavailable w off s, exec_dec_of_malformed w off s, exec_dec_of_fits w off s,
    fun u t hstrict hopen hs ht hhit => ?_⟩
  obtain ⟨hdone, hcsok⟩ := csok_of_strict_eor hstrict hopen hs
  obtain ⟨hframe, -⟩ := (readingThePayloadHasNoSideEffectOnIt s t hdone).1 w off ht
  calc t.csok = s.csok := by rw [hframe]
    _ = true := hcsok (valid_of_dec_hit hdone ht hhit)

/-- The strict clause of O28 is met: the window of an attitude frame with its right checksum byte, a strict EOR, and a
DEC that delivers. -/
theorem strict_eor_then_dec_delivers :
    let u := readWindow (setStrict true State.reset) [0x24, 0x4D, 0x3E, 6, 0x6C, 0x96, 0, 0xE2, 0xFF, 0x0B, 0x0E, 0xE4]
    u.strict = true ∧ u.winOpen = true ∧
      ∃ s t, exec .eor u = .next s ∧ exec (.dec .w2 0) s = .next t ∧ t.hit = true :=
  ⟨rfl, rfl, _, _, rfl, rfl, rfl⟩

/-! ## RDB -/

/-- The word of RDB (R85). -/
theorem encode_rdb (off : Byte) : encode (.rdb off) = .word (BitVec.ofNat 16 (0x5000 + off.toNat)) := rfl

/-- An RDB outside phase DONE is refused (R151). -/
theorem exec_rdb_of_not_done (off : Byte) (s : State) (hdone : s.done = false) :
    exec (.rdb off) s = .next { s with err := true } := by
  rw [exec_eq_apply _ rfl, effectOf, if_pos hdone]
  rfl

/-- An RDB inside the payload of an available frame delivers the byte (R151). -/
theorem exec_rdb_of_lt (off : Byte) (s : State) (hdone : s.done = true) (hvalid : s.valid = true)
    (hlt : off.toNat < s.len.toNat) :
    exec (.rdb off) s = .next (deliver (zext32 (payByte s off.toNat)) s) := by
  rw [exec_eq_apply _ rfl, effectOf_rdb_of_lt off s hdone hvalid hlt]
  rfl

/-- An RDB on an unavailable frame or outside the payload delivers nothing (R151). -/
theorem exec_rdb_of_missing (off : Byte) (s : State) (hdone : s.done = true)
    (hmiss : s.valid = false ∨ s.len.toNat ≤ off.toNat) : exec (.rdb off) s = .next { s with hit := false } := by
  have hno : ¬ (s.valid = true ∧ off.toNat < s.len.toNat) := by
    rintro ⟨hvalid, hlt⟩
    rcases hmiss with hmiss | hmiss
    · simp [hvalid] at hmiss
    · omega
  rw [exec_eq_apply _ rfl, effectOf, if_neg (by simp [hdone]), if_neg hno]
  rfl

/-- Zero extension keeps the value of the byte (R8). -/
theorem zext32_toNat (b : Byte) : (zext32 b).toNat = b.toNat := BitVec.toNat_setWidth_of_le (by omega)

/-- Settles O29: the word of R85, the refusal, the byte with its zero extension, and the miss. -/
theorem rdbDeliversTheRawByte : Obligations.RdbDeliversTheRawByte :=
  fun off s => ⟨decodeWord_eq_ok_iff_toNat (encode_rdb off) (by have := off.isLt; omega), exec_rdb_of_not_done off s,
    fun hdone hvalid hlt => ⟨_, zext32_toNat _, exec_rdb_of_lt off s hdone hvalid hlt⟩, exec_rdb_of_missing off s⟩

end Sys2Proof.Machine
end

section
/-! PROOFS, family 42_payload_access. What DEC and RDB find of a frame: nothing of a truncated one (R153), and of an
available one the fields up to the first that is missing (R152). -/

namespace Sys2Proof.Machine

/-! ## A truncated frame -/

/-- `Parse` of a cut frame whose header is good: the reason is the missing payload, in both modes (R124, R153). -/
theorem parseReason_of_truncated (raw : List Byte) (strict : Bool) (hfive : 5 ≤ raw.length)
    (h0 : raw[0]? = some Config.dollar) (h1 : raw[1]? = some Config.letterM)
    (h2 : raw[2]? = some Config.requestChar ∨ raw[2]? = some Config.responseChar)
    (hcut : raw.length < (raw.getD 3 0).toNat + 5) : parseReason raw strict = .trunc := by
  match raw with
  | [] | [_] | [_, _] | [_, _, _] | [_, _, _, _] => simp at hfive
  | b0 :: b1 :: b2 :: len :: code :: body =>
    have hheader : ¬ (b0 ≠ Config.dollar ∨ b1 ≠ Config.letterM ∨
        (b2 ≠ Config.requestChar ∧ b2 ≠ Config.responseChar)) := by
      simp only [List.getElem?_cons_zero, List.getElem?_cons_succ, Option.some.injEq] at h0 h1 h2
      tauto
    have hbody : body.length < len.toNat := by simpa using hcut
    rw [parseReason, parse, if_neg hheader, if_pos hbody]

/-- Settles O27: `FEED` leaves the window of the read with the reason `Parse` gives, and a frame that is not available
has nothing for DEC and RDB. -/
theorem truncatedFrameDeliversNothing : Obligations.TruncatedFrameDeliversNothing := by
  intro raw s hfive h0 h1 h2 hcut
  rw [feed_eq_readWindow, parseReason_of_truncated raw s.strict hfive h0 h1 h2 hcut]
  refine ⟨_, rfl, rfl, rfl, ?count, rfl, rfl, fun k hk => ?payload,
    fun w off => exec_dec_of_unavailable w off _ rfl rfl, fun off => exec_rdb_of_missing off _ rfl (.inl rfl)⟩
  case count =>
    refine (readWindow_cnt_toNat s raw).trans ?_
    rw [if_neg (by omega), min_eq_left (by omega)]
  case payload =>
    refine (read?_readWindow s raw k).trans ?_
    rw [if_pos (lt_min (by omega) hk)]

/-! ## The fields of an available frame -/

/-- `Field` of the frame that a state holds, at a DEC's width and offset (R152). -/
def fieldOf (s : State) (p : Width × Byte) : Option Int :=
  field ((List.range s.len.toNat).map (payByte s)) s.len.toNat p.2.toNat p.1.bytes

/-- The DECs of a sequence of fields. -/
def decOps (ps : List (Width × Byte)) : List Instr := ps.map fun p => .dec p.1 p.2

/-- The bytes of a field inside a range of bytes. -/
theorem take_drop_map_range {α : Type} (f : Nat → α) (len off w : Nat) (h : off + w ≤ len) :
    (((List.range len).map f).drop off).take w = (List.range w).map fun j => f (off + j) :=
  List.ext_getElem (by simp; omega) (by simp)

theorem fieldOf_eq_some_iff (s : State) (p : Width × Byte) (v : Int) : fieldOf s p = some v ↔
    p.2.toNat + p.1.bytes ≤ s.len.toNat ∧
      decodeSigned ((List.range p.1.bytes).map fun j => payByte s (p.2.toNat + j)) = v := by
  rw [fieldOf, field]
  split_ifs with h
  · rw [take_drop_map_range _ _ _ _ h, Option.some.injEq, and_iff_right h]
  · simp [h]

theorem fieldOf_eq_none_iff (s : State) (p : Width × Byte) :
    fieldOf s p = none ↔ s.len.toNat < p.2.toNat + p.1.bytes := by
  simp [fieldOf, field]

section AvailableFrame

variable {s : State} (hdone : s.done = true) (hvalid : s.valid = true)

include hdone hvalid

/-- DEC delivers the field that is there (R152). -/
theorem exec_dec_of_fieldOf_eq_some (hferr : s.ferr = false) {p : Width × Byte} {v : Int} (hv : fieldOf s p = some v) :
    exec (.dec p.1 p.2) s = .next (deliver (sext32 v) s) := by
  obtain ⟨hfits, rfl⟩ := (fieldOf_eq_some_iff s p v).mp hv
  exact exec_dec_of_fits p.1 p.2 s hdone hvalid hferr hfits

/-- DEC fails on the field that is missing (R152). -/
theorem exec_dec_of_fieldOf_eq_none {p : Width × Byte} (hnone : fieldOf s p = none) :
    exec (.dec p.1 p.2) s = .next { s with ferr := true, hit := false } :=
  exec_dec_of_malformed p.1 p.2 s hdone hvalid (.inr ((fieldOf_eq_none_iff s p).mp hnone))

/-- As long as the fields are there, a sequence of DECs writes the result registers alone, and they hold the last
field. Induction at the end of the sequence: the DECs before the last one left the frame as it was. -/
theorem runAll_decOps_of_fields (hferr : s.ferr = false) (ps : List (Width × Byte))
    (hps : ∀ q ∈ ps, fieldOf s q ≠ none) : ∃ t, runAll (decOps ps) s = .next t ∧
      t = { s with res := t.res, resv := t.resv, hit := t.hit } ∧
      ∀ q v, ps.getLast? = some q → fieldOf s q = some v → t.hit = true ∧ t.res = sext32 v := by
  induction ps using List.reverseRecOn with
  | nil => exact ⟨s, rfl, rfl, nofun⟩
  | append_singleton ps p ih =>
    obtain ⟨t, hrun, hframe, -⟩ := ih fun q hq => hps q (List.mem_append_left _ hq)
    obtain ⟨v, hv⟩ := Option.ne_none_iff_exists'.mp (hps p (by simp))
    have hlast : exec (.dec p.1 p.2) t = .next (deliver (sext32 v) t) := by
      rw [hframe]
      exact exec_dec_of_fieldOf_eq_some (s := { s with res := t.res, resv := t.resv, hit := t.hit })
        hdone hvalid hferr hv
    refine ⟨deliver (sext32 v) t, ?_, by rw [hframe]; rfl, fun q x hq hx => ?_⟩
    · rw [decOps, List.map_append, runAll_append, ← decOps, hrun, andThen_next]
      exact (runAll_singleton _ t).trans hlast
    · obtain rfl : p = q := by simpa using hq
      obtain rfl : v = x := Option.some.inj (hv.symm.trans hx)
      exact ⟨rfl, rfl⟩

/-- After a failed field a sequence of DECs changes nothing (R37, R152). -/
theorem runAll_decOps_of_ferr (hferr : s.ferr = true) (hhit : s.hit = false) (ps : List (Width × Byte)) :
    runAll (decOps ps) s = .next s := by
  induction ps with
  | nil => rfl
  | cons p ps ih =>
    have hfirst : exec (.dec p.1 p.2) s = .next s := by
      rw [exec_dec_of_ferr p.1 p.2 s hdone hvalid hferr, ← hhit]
    rw [decOps, List.map_cons, runAll, hfirst, andThen_next]
    exact ih

end AvailableFrame

/-- Settles O34: DEC by `Field`, the DECs before the first missing field, and those from it on. -/
theorem decDeliversUpToTheFirstMissingField : Obligations.DecDeliversUpToTheFirstMissingField := by
  refine fun s hdone hvalid hferr => ⟨fun p v => exec_dec_of_fieldOf_eq_some hdone hvalid hferr,
    fun p => exec_dec_of_fieldOf_eq_none hdone hvalid, fun before after p hbefore hnone => ?_⟩
  obtain ⟨t, hrun, hframe, hlast⟩ := runAll_decOps_of_fields hdone hvalid hferr before hbefore
  have htdone : t.done = true := (congrArg State.done hframe).trans hdone
  have htvalid : t.valid = true := (congrArg State.valid hframe).trans hvalid
  have htnone : fieldOf t p = none := by rw [hframe]; exact hnone
  refine ⟨t, hrun, (congrArg State.ferr hframe).trans hferr, hlast, ?_⟩
  change runAll (.dec p.1 p.2 :: decOps after) t = _
  rw [runAll, exec_dec_of_fieldOf_eq_none htdone htvalid htnone, andThen_next]
  exact runAll_decOps_of_ferr (s := { t with ferr := true, hit := false }) htdone htvalid rfl rfl after

end Sys2Proof.Machine
end

section
/-! PROOFS, family 43_control. NOP, WRC and RST (R165, R166, R167), the idle step (log 4), and the phase table (R169):
the table is read as a decision of the effects, each of which leads to one phase. -/

namespace Sys2Proof.Machine

/-! ## NOP and idleness -/

/-- Any number of NOPs changes nothing (R165). -/
theorem runAll_replicate_nop (n : Nat) (s : State) : runAll (List.replicate n .nop) s = .next s := by
  induction n with
  | zero => rfl
  | succ n ih => exact ih

/-- Settles O15: the word of R85, and a run through the NOPs comes out where it went in. -/
theorem nopChangesNothingAnywhere : Obligations.NopChangesNothingAnywhere := by
  refine ⟨decodeWord_eq_ok_iff_toNat rfl (by omega), fun s => rfl, fun a b n s => ?_⟩
  have hnops (t : State) : runAll (List.replicate n .nop ++ b) t = runAll b t := by
    rw [runAll_append, runAll_replicate_nop, andThen_next]
  rw [List.append_assoc, runAll_append, funext hnops, ← runAll_append]

/-- Settles O9. -/
theorem idleStepChangesNothing : Obligations.IdleStepChangesNothing := step_idle

/-! ## WRC and RST -/

/-- Settles O16: the word of R85, and both branches of WRC. -/
theorem wrcWritesStrictOutsideAWindow : Obligations.WrcWritesStrictOutsideAWindow := by
  intro v s
  have hv := v.toNat_le
  refine ⟨decodeWord_eq_ok_iff_toNat (encode_wrc v) (by omega), fun hopen => ?_, fun hopen => ?_⟩
  · rw [exec_eq_apply _ rfl, effectOf, if_neg (by simp [hopen])]
    rfl
  · rw [exec_eq_apply _ rfl, effectOf, if_pos hopen]
    rfl

/-- Settles O17: the word of R85, and the reset state with the port, which a second RST finds in place. -/
theorem rstRestoresTheResetState : Obligations.RstRestoresTheResetState :=
  ⟨decodeWord_eq_ok_iff_toNat rfl (by omega), fun s => ⟨resetBlock s, rfl, rfl, rfl, rfl, rfl⟩⟩

/-! ## The phase table -/

/-- The three phases, by the two flags that show them (R32, R46 item 1). -/
theorem phase_cases (s : State) (hone : ¬(s.winOpen = true ∧ s.done = true)) :
    (s.winOpen = false ∧ s.done = false ∧ phase s = .idle) ∨
    (s.winOpen = true ∧ s.done = false ∧ phase s = .opened) ∨
    (s.winOpen = false ∧ s.done = true ∧ phase s = .closed) := by
  cases hopen : s.winOpen <;> cases hdone : s.done <;> simp_all [phase]

/-- The phase an effect leads to, `none` for a refusal. -/
def Effect.phaseAfter : Effect → Phase → Option Phase
  | .refused, _ => none
  | .opened, _ => some .opened
  | .closed _, _ => some .closed
  | .reset, _ => some .idle
  | .same, p | .received _, p | .missed, p | .malformed, p | .delivered _, p | .operand _ _, p | .mode _, p => some p

/-- What R169's table asks of the state `t` after the operation `i`, for an entry of the table. -/
def EntryFollowed (i : Instr) (s t : State) : Option Phase → Prop
  | some p => phase t = p ∧ ¬(t.winOpen = true ∧ t.done = true) ∧ (i ≠ .rst → t.err = s.err)
  | none => t = { s with err := true }

/-- The table's entry for an operation of the command word is the phase of the effect it has there. -/
theorem phaseTable_eq_phaseAfter (i : Instr) (hrow : isFrameRow i = false) (s : State)
    (hone : ¬(s.winOpen = true ∧ s.done = true)) :
    phaseTable i (phase s) = (effectOf i s).phaseAfter (phase s) := by
  cases i with
  | nop | sor | ldo | deco | rst => rfl
  | push | eor | wrc =>
    obtain ⟨hopen, -, hphase⟩ | ⟨hopen, -, hphase⟩ | ⟨hopen, -, hphase⟩ := phase_cases s hone
    all_goals simp [hphase, effectOf, hopen, phaseTable, Effect.phaseAfter]
  | dec | rdb =>
    obtain ⟨-, hdone, hphase⟩ | ⟨-, hdone, hphase⟩ | ⟨-, hdone, hphase⟩ := phase_cases s hone
    case inr.inr =>
      simp only [hphase, effectOf, hdone, reduceCtorEq, reduceIte]
      split_ifs <;> rfl
    all_goals simp [hphase, effectOf, hdone, phaseTable, Effect.phaseAfter]
  | respRawImu | respMotor | respRc | respAttitude | respAltitude | respSetRawRc | respOther
  | reqRawImu | reqMotor | reqRc | reqAttitude | reqAltitude | cmdSetRawRc | reqOther => cases hrow

/-- An effect leads to its phase, and only those of a refusal and of RST write `ERR`. -/
theorem Effect.apply_entryFollowed (i : Instr) (e : Effect) (s : State)
    (hone : ¬(s.winOpen = true ∧ s.done = true)) (hg : e.Guard i s) :
    EntryFollowed i s (e.apply s) (e.phaseAfter (phase s)) := by
  cases e with
  | refused => rfl
  | received b =>
    have hphase : phase (pushed b s) = phase s := by simp only [phase, pushed_winOpen, pushed_done]
    have hone' : ¬((pushed b s).winOpen = true ∧ (pushed b s).done = true) := by
      rwa [pushed_winOpen, pushed_done]
    exact ⟨hphase, hone', fun _ => pushed_err b s⟩
  | reset => exact ⟨rfl, nofun, fun hi => absurd hg hi⟩
  | opened | closed => exact ⟨rfl, nofun, fun _ => rfl⟩
  | same | missed | malformed | delivered | operand | mode => exact ⟨rfl, hone, fun _ => rfl⟩

/-- The table has a frame row lead to phase DONE from every phase (log 2). -/
theorem phaseTable_of_isFrameRow (i : Instr) (hrow : isFrameRow i = true) (p : Phase) :
    phaseTable i p = some .closed := by
  cases i with
  | nop | sor | push | eor | dec | rdb | ldo | deco | wrc | rst => cases hrow
  | respRawImu | respMotor | respRc | respAttitude | respAltitude | respSetRawRc | respOther
  | reqRawImu | reqMotor | reqRc | reqAttitude | reqAltitude | cmdSetRawRc | reqOther => rfl

/-- A read ends in phase DONE and leaves `ERR` (R86, R123). -/
theorem feed_entryFollowed (i : Instr) (raw : List Byte) (s : State) :
    ∃ t, feed raw s = .next t ∧ EntryFollowed i s t (some .closed) :=
  ⟨_, feed_eq_readWindow raw s, rfl, nofun, fun _ => rfl⟩

/-- Every operation does what the table has for it (R169). -/
theorem exec_entryFollowed (i : Instr) (s : State) (hone : ¬(s.winOpen = true ∧ s.done = true)) :
    ∃ t, exec i s = .next t ∧ EntryFollowed i s t (phaseTable i (phase s)) := by
  cases hrow : isFrameRow i with
  | false =>
    rw [phaseTable_eq_phaseAfter i hrow s hone]
    exact ⟨_, exec_eq_apply i hrow s, (effectOf i s).apply_entryFollowed i s hone (effectOf_guard i s)⟩
  | true =>
    obtain ⟨raw, hraw⟩ := exec_eq_feed_of_isFrameRow i hrow
    rw [phaseTable_of_isFrameRow i hrow, hraw]
    exact feed_entryFollowed i raw s

/-- Settles O14: the entries of the table one by one, and the refusal of a word that does not decode. -/
theorem phaseTableIsFollowed : Obligations.PhaseTableIsFollowed :=
  ⟨exec_entryFollowed, fun c e _ rest hdec => step_of_decode_error _ (.word c) rest e rfl hdec⟩

end Sys2Proof.Machine
end
